-- ==== Sys2Proof/Word.lean ====
section
/-!
DEFINITION. The fixed-width values of the block and the plainest arithmetic on them.
The width of a lane (W) and of a packed word (DATAWIDTH) are parameters (00_scope.md R6, R7): they are fields of
`Sys2Proof.Config`, and a packed word is `BitVec c.dataWidth`.
-/
namespace Sys2Proof

/-- One byte of data memory (20_memory.md R50). -/
abbrev Byte := BitVec 8

/-- One control-port register or transaction value (10_state.md R21). -/
abbrev Reg := BitVec 32

/-- `ispow2` of 00_scope.md R13: v != 0 and v AND (v-1) == 0. -/
def isPow2 (v : Nat) : Bool := v != 0 && (v &&& (v - 1)) == 0

end Sys2Proof
end

