-- ==== Sys2Proof/Config.lean ====
section
/-!
DEFINITION. What one build of the block and its platform fix (00_scope.md section 3), and the free values.
A configuration is plain data and a field of the machine's state that no step changes, so that one model covers every
configuration the spec admits (log 1).
-/
namespace Sys2Proof

/-- A half-open range of byte addresses [base, base + len), on mathematical integers (20_memory.md R60). -/
structure Region where
  base : Nat
  len : Nat
deriving DecidableEq, Repr

/-- The implementation parameters of 00_scope.md R6 to R10 and 20_memory.md R59. -/
structure Config where
  /-- W, the element width in bits (R6). -/
  elemWidth : Nat
  /-- DATAWIDTH, the packed word width in bits (R7). -/
  dataWidth : Nat
  /-- ADDR_WIDTH, the width of a data-memory byte address (R9). -/
  addrWidth : Nat
  /-- CTRL_BASE, where the control space begins in the host's address map (R59). -/
  ctrlBase : Nat
  /-- MemAdmits as data: the byte ranges in which the platform refuses the block's requests (R10; log 2). -/
  holes : List Region
deriving DecidableEq, Repr

/-- L, the number of lanes of a packed word (R7). -/
def Config.lanes (c : Config) : Nat := c.dataWidth / c.elemWidth

/-- WB, the number of bytes of a packed word (R8). -/
def Config.wordBytes (c : Config) : Nat := c.dataWidth / 8

/-- EB, the number of bytes of an element (R8). -/
def Config.elemBytes (c : Config) : Nat := c.elemWidth / 8

/-- The default configuration of R6, R7 and R9.
DESIGN CHOICE: the platform refuses nothing (log 2) and CTRL_BASE is 0 (log 3). -/
abbrev Config.standard : Config :=
  { elemWidth := 32, dataWidth := 512, addrWidth := 64, ctrlBase := 0, holes := [] }

/-- The configuration MINI of R11, used by the spec's test vectors: R11 fixes W, DATAWIDTH and ADDR_WIDTH.
DESIGN CHOICE: R11 leaves MemAdmits an argument and R59 leaves CTRL_BASE open; here the platform refuses nothing (log 2)
and CTRL_BASE is 0 (log 3). -/
abbrev Config.mini : Config :=
  { elemWidth := 8, dataWidth := 32, addrWidth := 64, ctrlBase := 0, holes := [] }

/-- The free values: what the spec calls unspecified or "any value" (93_implementation_defined.md I3 to I6), `w` bits
wide, the `n`-th one a run uses. It has no body, so a claim about it holds for every value (log 7). -/
opaque Config.freeValue : (w : Nat) → Nat → BitVec w

end Sys2Proof
end

