-- ==== Sys2Proof/Syntax.lean ====
section
/-!
DEFINITION. The commands of the block: one constructor for each row of spec/opcode_table.json.
-/
namespace Sys2Proof

/-- The launchable commands (30_encoding.md R82). A command word carries no operand: a command reads its operands from
the control registers ARG0 to ARG2 and DIM0 to DIM2 at launch (R89), so no constructor has a field. -/
inductive Instr where
  /-- OP = 0, the Streaming Multiply Engine's command (42_multiply.md R150). -/
  | multiply
  /-- OP = 1, the Transpose Stage's command (41_transpose.md R130). -/
  | transpose
deriving DecidableEq, Repr

end Sys2Proof
end

