-- ==== Sys2Proof/WellFormed.lean ====
section
/-!
DEFINITION. What is well formed: a command, and a configuration.
-/
namespace Sys2Proof

/-- Every command is well formed: its word has no operand field (30_encoding.md R81), so there is nothing to check. -/
def Instr.wf : Instr → Bool
  | .multiply => true
  | .transpose => true

/-- R6: W is a positive multiple of 8. -/
def Config.elemWidthOk (c : Config) : Bool := c.elemWidth != 0 && c.elemWidth % 8 == 0

/-- R7: DATAWIDTH is a multiple of W. -/
def Config.dataWidthOk (c : Config) : Bool := c.dataWidth % c.elemWidth == 0

/-- R7: L is a power of two, at least 1. -/
def Config.lanesOk (c : Config) : Bool := isPow2 c.lanes

/-- R9: 1 <= ADDR_WIDTH <= 64. -/
def Config.addrWidthOk (c : Config) : Bool := 1 ≤ c.addrWidth && c.addrWidth ≤ 64

/-- The constraints of 00_scope.md R6, R7 and R9 together. -/
def Config.wf (c : Config) : Bool :=
  c.elemWidthOk && c.dataWidthOk && c.lanesOk && c.addrWidthOk

end Sys2Proof
end

