-- ==== Sys2Proof/Decode.lean ====
section
/-!
DEFINITION. The command word, the value a host writes to CTRL (30_encoding.md R81 to R84): its decoder and its encoder.
-/
namespace Sys2Proof

/-- What a command word means when the block is idle (R94 (f)): a command, or one of the two ways it is none. -/
inductive Decoded where
  /-- START = 1 with a defined OP: launch this command (R82). -/
  | command (i : Instr)
  /-- START = 0: nothing is launched, whatever the OP (R82, 45_control_port.md R191). -/
  | noLaunch (op : BitVec 4)
  /-- START = 1 with OP in 2 to 15: an illegal command word, reported as E_OP (R94 (a)). -/
  | reservedOp (op : BitVec 4)
deriving DecidableEq, Repr

/-- The START field, bit 0 (R81). -/
def startField (v : Reg) : Bool := v.getLsbD 0

/-- The OP field, bits 7:4 (R81). -/
def opField (v : Reg) : BitVec 4 := v.extractLsb' 4 4

/-- R83: bits 7:4 and 0 decide, every other bit takes no part. -/
def decode (v : Reg) : Decoded :=
  if startField v then
    if opField v = 0#4 then .command .multiply
    else if opField v = 1#4 then .command .transpose
    else .reservedOp (opField v)
  else .noLaunch (opField v)

/-- The OP value of a command (R82). -/
def Instr.op : Instr → BitVec 4
  | .multiply => 0#4
  | .transpose => 1#4

/-- The command word with START = 1, the command's OP and every reserved bit 0, as R93 `launch OP` writes it. -/
def encode (i : Instr) : Reg := 0#24 ++ i.op ++ 0#3 ++ 1#1

/-- The decode mask of R83. -/
def decodeMask : Reg := 0x000000F1#32

/-- The command a table word of `nbits` bits stands for. A command word is one 32-bit value written in one transaction
(R80, R91), so a word of more than 32 bits is none, and bits above `nbits` are 0. -/
def decodeTableWord (nbits w : Nat) : Option Instr :=
  if nbits ≤ 32 then
    match decode (BitVec.ofNat 32 (w % 2 ^ nbits)) with
    | .command i => some i
    | _ => none
  else none

end Sys2Proof
end

