-- ==== Sys2Proof/Machine/State.lean ====
section
/-!
DEFINITION. Everything the spec gives the machine, as plain data: the block's registers (10_state.md), the data memory
it works on (20_memory.md), the host that drives it (45_control_port.md), and the model's own observation fields.
INVENTORY.md, section State, lists each field with its rule and its reset value.
-/
namespace Sys2Proof.Machine

/-- The sequencer's states (10_state.md R36). -/
inductive Fsm where
  | idle
  | mulInit
  | mulRow
  | mulBload
  | mulCol
  | mulFlush
  | trnRun
deriving DecidableEq, Repr

/-- The fields of STATUS (10_state.md R23); the reserved bits always read 0 and are no state. -/
structure Status where
  busy : Bool
  done : Bool
  err : Bool
  errcode : BitVec 8
deriving DecidableEq, Repr

/-- The block's own state (10_state.md R20): control registers, data-path registers, sequencer. -/
structure Block (c : Config) where
  /-- CTRL.OP (R22); CTRL.START holds no state. -/
  op : BitVec 4
  /-- STATUS (R23). -/
  status : Status
  /-- ARG0 (R24). -/
  arg0Lo : Reg
  arg0Hi : Reg
  /-- ARG1 (R25). -/
  arg1Lo : Reg
  arg1Hi : Reg
  /-- ARG2 (R26). -/
  arg2Lo : Reg
  arg2Hi : Reg
  /-- DIM0 (R27). -/
  dim0 : Reg
  /-- DIM1 (R28). -/
  dim1 : Reg
  /-- DIM2 (R29). -/
  dim2 : Reg
  /-- The sequencer's state and its outer and middle counters (R36). -/
  fsm : Fsm
  i : BitVec 32
  j : BitVec 32
  /-- The double buffer of the A stream (R31). -/
  aCur : BitVec c.dataWidth
  aNext : BitVec c.dataWidth
  /-- The double buffer of the transposed-B stream (R32). -/
  bCur : BitVec c.dataWidth
  bNext : BitVec c.dataWidth
  /-- The output accumulation word (R33). -/
  outWord : BitVec c.dataWidth
deriving DecidableEq, Repr

/-- The data memory: the bytes that differ from what an unlisted address reads as, at strictly rising addresses. -/
abbrev Mem := List Host.Cell

/-- What the block's memory port shows an observer (10_state.md R39 (a)). -/
inductive Request where
  /-- A read of one packed word at a byte address. -/
  | read (addr : Nat)
  /-- A write of one packed word at a byte address. -/
  | write (addr : Nat)
  /-- TRANSPOSE's requests: every word of the source read, every word of the destination written once, in an order the
  spec leaves open (41_transpose.md R134), so none is recorded. -/
  | transpose (src dst nwords : Nat)
deriving DecidableEq, Repr

/-- One line of a host's program (30_encoding.md R92), and the host's own accesses to data memory (00_scope.md R16). -/
inductive HostLine where
  /-- `wr OFF, VAL`: one write transaction of `bits` bits at a control offset (R90). -/
  | wr (off bits : Nat) (v : Reg)
  /-- `rd OFF`: one read transaction of `bits` bits at a control offset (R90). -/
  | rd (off bits : Nat)
  /-- `poll OFF, MASK, VAL`: read transactions until (value AND MASK) == VAL (R92). -/
  | poll (off : Nat) (mask val : Reg)
  /-- A write transaction named by its address in the host's map, CTRL_BASE plus an offset (20_memory.md R59). -/
  | busWr (addr bits : Nat) (v : Reg)
  /-- A read transaction named by its address in the host's map. -/
  | busRd (addr bits : Nat)
  /-- The host writes bytes of data memory through its own path (R50 (2)). -/
  | memWr (addr : Nat) (bytes : List Byte)
  /-- The host reads bytes of data memory through its own path. -/
  | memRd (addr len : Nat)
deriving DecidableEq, Repr

/-- What a read gave back to the host. -/
inductive Answer where
  /-- The value of a control register (30_encoding.md R90). -/
  | port (off : Nat) (v : Reg)
  /-- Bytes of data memory. -/
  | mem (addr : Nat) (bytes : List Byte)
deriving DecidableEq, Repr

/-- Who moves next (45_control_port.md R190, 60_exceptions.md R238). -/
inductive Turn where
  /-- The host makes one transaction or memory access. -/
  | host
  /-- The block makes one step. -/
  | block
  /-- Reset is asserted (70_reset_and_hazards.md R260). -/
  | reset
deriving DecidableEq, Repr

/-- The machine: one block, its data memory, its host. -/
structure State where
  /-- The build's parameters; no step changes them (log 1). -/
  cfg : Config
  /-- The block's registers. -/
  block : Block cfg
  /-- The data memory. -/
  mem : Mem
  /-- The host's remaining lines, the next one first (log 8). -/
  program : List HostLine
  /-- Whose turns come next, the first one first (log 8). -/
  schedule : List Turn
  /-- What the host's reads gave back, the oldest first (log 20). -/
  answers : List Answer
  /-- The requests the block has made, the oldest first (log 12). -/
  trace : List Request
  /-- The model's own: the host has broken its duty of 70_reset_and_hazards.md R267 during the running command, so every
  output word written from now on is any value (log 14). -/
  tainted : Bool
  /-- The model's own: how many free values have been used (log 7). -/
  fresh : Nat
deriving DecidableEq, Repr

/-- Why the machine stops. The spec's own errors (60_exceptions.md R221) are results in STATUS and no stops. -/
inductive Fault where
  /-- Raised by a host access to data memory that reaches past 2^ADDR_WIDTH, where no byte exists (20_memory.md R50).
  Safe: the model stops where the spec gives nothing to access (log 17). -/
  | hostAddressOutsideMemory (addr : Nat)
deriving DecidableEq, Repr

/-- What has no meaning in the spec. -/
inductive Refusal where
  /-- The refusal of an instruction without a meaning, by its mnemonic; no arm of `exec` raises it. Safe. -/
  | notModelled (mnemonic : String)
  /-- Raised by a port transaction that is not 32 bits wide (45_control_port.md R201). Safe. -/
  | portWidth (bits : Nat)
  /-- Raised by a port transaction at an offset that is no multiple of 4 (R201). Safe. -/
  | portMisaligned (off : Nat)
  /-- Raised by a port transaction at an offset of 0x100 or more (R201). Safe. -/
  | portOffset (off : Nat)
  /-- Raised by a host bus access outside the 0x100 bytes from CTRL_BASE, which is no control-port transaction (log 22). Safe. -/
  | hostAddressOutsideControlSpace (addr : Nat)
  /-- Raised by the codec's matrix functions on a shape out of contract (40_codec.md R118); no step calls them so. Safe. -/
  | codecShape
  /-- Raised by the checked lane functions on a lane index k >= L (R118); no step calls them so. Safe. -/
  | laneIndex (k : Nat)
deriving DecidableEq, Repr

/-- The block right after reset (10_state.md R41).
DESIGN CHOICE: i, j and the data-path registers, which R41 leaves unspecified, hold 0 (log 5). -/
def Block.reset (c : Config) : Block c :=
  { op := 0
    status := { busy := false, done := false, err := false, errcode := 0 }
    arg0Lo := 0
    arg0Hi := 0
    arg1Lo := 0
    arg1Hi := 0
    arg2Lo := 0
    arg2Hi := 0
    dim0 := 0
    dim1 := 0
    dim2 := 0
    fsm := .idle
    i := 0
    j := 0
    aCur := 0
    aNext := 0
    bCur := 0
    bNext := 0
    outWord := 0 }

/-- A machine of any configuration right after reset: the block reset, nothing listed in memory, no host activity. -/
def State.resetOf (c : Config) : State :=
  { cfg := c
    block := Block.reset c
    mem := []
    program := []
    schedule := []
    answers := []
    trace := []
    tainted := false
    fresh := 0 }

/-- The machine right after reset, in the default configuration (00_scope.md R6, R7; log 1). -/
def State.reset : State := State.resetOf Config.standard

end Sys2Proof.Machine
end

