-- ==== Sys2Proof/Machine/Flags.lean ====
section
/-!
DEFINITION. STATUS: its value as a register, the error codes, and the four ways it changes (10_state.md R23 and R38:
only a launch, a completion and reset write it; the arithmetic sets no flag).
-/
namespace Sys2Proof.Machine

/-- The results of the entry checks (60_exceptions.md R221). -/
inductive ErrCode where
  | none
  | op
  | dim0
  | dim1
  | dim2
  | shape
  | align
  | range
  | overlap
deriving DecidableEq, Repr

/-- The value of STATUS.ERRCODE for a code (R221). -/
def ErrCode.byte : ErrCode → BitVec 8
  | .none => 0
  | .op => 1
  | .dim0 => 2
  | .dim1 => 3
  | .dim2 => 4
  | .shape => 5
  | .align => 6
  | .range => 7
  | .overlap => 8

/-- The 32-bit value of STATUS: {16'b0, ERRCODE, 5'b0, ERR, DONE, BUSY} (45_control_port.md R195). -/
def Status.word (st : Status) : Reg :=
  0#16 ++ st.errcode ++ 0#5 ++ BitVec.ofBool st.err ++ BitVec.ofBool st.done ++ BitVec.ofBool st.busy

/-- A launch clears the previous result: DONE, ERR and ERRCODE (R192). -/
def Status.cleared (st : Status) : Status :=
  { st with done := false, err := false, errcode := 0 }

/-- A launch whose checks pass sets BUSY over the cleared result (R192). -/
def Status.launched (st : Status) : Status :=
  { st.cleared with busy := true }

/-- Error completion (60_exceptions.md R230). -/
def Status.failed (code : ErrCode) : Status :=
  { busy := false, done := true, err := true, errcode := code.byte }

/-- Normal completion (R232). -/
def Status.completed : Status :=
  { busy := false, done := true, err := false, errcode := 0 }

end Sys2Proof.Machine
end

