-- ==== Sys2Proof/Machine/Ops.lean ====
section
/-!
DEFINITION. The named operations over data memory, regions, the control registers and the whole state, and the two ways
a command ends: the error completion (the block's only exception, 60_exceptions.md R220) and the normal completion.
-/
namespace Sys2Proof.Machine

/-! ### Data memory, one byte at a time (20_memory.md R50, R52) -/

/-- What a byte of memory that nothing has written reads as.
DESIGN CHOICE: 0 (log 4). -/
def Mem.unlisted : Byte := 0

/-- The byte at an address. -/
def Mem.readByte : Mem → Nat → Byte
  | [], _ => Mem.unlisted
  | (k, v) :: m, a => if k = a then v else Mem.readByte m a

/-- Put one cell in front of a memory, unless it holds what an unlisted address reads as. -/
def Mem.cons (a : Nat) (b : Byte) (m : Mem) : Mem :=
  if b = Mem.unlisted then m else (a, b) :: m

/-- Write the byte at an address, keeping the canonical form. -/
def Mem.writeByte : Mem → Nat → Byte → Mem
  | [], a, b => Mem.cons a b []
  | (k, v) :: m, a, b =>
    if a < k then Mem.cons a b ((k, v) :: m)
    else if a = k then Mem.cons a b m
    else (k, v) :: Mem.writeByte m a b

/-- Every address of the memory is above `lo`, they rise strictly, and no cell holds the unlisted value. -/
def Mem.wfAbove (lo : Nat) : Mem → Bool
  | [] => true
  | (k, v) :: m => lo ≤ k && v != Mem.unlisted && Mem.wfAbove (k + 1) m

/-- The canonical form of a memory. -/
def Mem.wf (m : Mem) : Bool := Mem.wfAbove 0 m

/-! ### Data memory, several bytes (R52, little-endian) -/

/-- The `n` bytes from `a` on, the lowest address first. -/
def Mem.readBytes (m : Mem) (a n : Nat) : List Byte :=
  (List.range n).map fun b => m.readByte (a + b)

/-- Write bytes from `a` on, the first one at the lowest address. -/
def Mem.writeBytes (m : Mem) (a : Nat) : List Byte → Mem
  | [] => m
  | b :: bs => Mem.writeBytes (m.writeByte a b) (a + 1) bs

/-- The little-endian integer of a list of bytes: the sum of byte b times 2^(8b) (R52). -/
def leNat : List Byte → Nat
  | [] => 0
  | b :: bs => b.toNat + 256 * leNat bs

/-- The first `n` bytes of a value, byte b being bits [8b+7:8b] (R52). -/
def leBytes {w : Nat} (v : BitVec w) (n : Nat) : List Byte :=
  (List.range n).map fun b => v.extractLsb' (8 * b) 8

/-- `MemRead(a, WB)`: one packed word (R52, R57). -/
def memWord (c : Config) (m : Mem) (a : Nat) : BitVec c.dataWidth :=
  BitVec.ofNat c.dataWidth (leNat (m.readBytes a c.wordBytes))

/-- `MemWrite(a, WB, v)`: one packed word (R52, R57). -/
def setMemWord (c : Config) (m : Mem) (a : Nat) (v : BitVec c.dataWidth) : Mem :=
  m.writeBytes a (leBytes v c.wordBytes)

/-- The words of a packed stream: `nw` words from `a` on. -/
def memWords (c : Config) (m : Mem) (a nw : Nat) : List (BitVec c.dataWidth) :=
  (List.range nw).map fun t => memWord c m (a + t * c.wordBytes)

/-- Write a packed stream from `a` on, word after word. -/
def setMemWords (c : Config) (m : Mem) (a : Nat) : List (BitVec c.dataWidth) → Mem
  | [] => m
  | v :: vs => setMemWords c (setMemWord c m a v) (a + c.wordBytes) vs

/-- `n` free bytes, the first one the `k`-th free value of the run (log 7). -/
def freeBytes (k n : Nat) : List Byte :=
  (List.range n).map fun b => Config.freeValue 8 (k + b)

/-! ### Regions and the platform (R60, 00_scope.md R10) -/

/-- `Region(base, nwords)` (R60). -/
def wordRegion (c : Config) (base nwords : Nat) : Region :=
  { base := base, len := nwords * c.wordBytes }

/-- `overlaps` (R60): both non-empty, and each starts before the other ends. -/
def overlaps (r s : Region) : Bool :=
  0 < r.len && 0 < s.len && r.base < s.base + s.len && s.base < r.base + r.len

/-- An address lies in a region. -/
def inRegion (r : Region) (a : Nat) : Bool :=
  r.base ≤ a && a < r.base + r.len

/-- `MemAdmits(addr, size)` (R10): the bytes exist, and no hole of the platform meets them (log 2). -/
def memAdmits (c : Config) (a size : Nat) : Bool :=
  a + size ≤ 2 ^ c.addrWidth && c.holes.all fun h => !overlaps { base := a, len := size } h

/-- The platform admits a request the block is about to make; for TRANSPOSE, every one of its requests (R236). -/
def admits (c : Config) : Request → Bool
  | .read a => memAdmits c a c.wordBytes
  | .write a => memAdmits c a c.wordBytes
  | .transpose src dst nw =>
    (List.range nw).all fun t =>
      memAdmits c (src + t * c.wordBytes) c.wordBytes && memAdmits c (dst + t * c.wordBytes) c.wordBytes

/-! ### The control registers behind the port (10_state.md R21, R22, R30) -/

/-- The value a read of a control offset returns (45_control_port.md R194, R195, R198, R199). -/
def portValue {c : Config} (b : Block c) (off : Nat) : Reg :=
  if off = 0x00 then 0#24 ++ b.op ++ 0#4
  else if off = 0x04 then b.status.word
  else if off = 0x10 then b.arg0Lo
  else if off = 0x14 then b.arg0Hi
  else if off = 0x18 then b.arg1Lo
  else if off = 0x1C then b.arg1Hi
  else if off = 0x20 then b.arg2Lo
  else if off = 0x24 then b.arg2Hi
  else if off = 0x28 then b.dim0
  else if off = 0x2C then b.dim1
  else if off = 0x30 then b.dim2
  else 0

/-- `Reg(off) <- v` for an ARG or DIM offset; any other offset holds no register a plain write reaches (R196, R197,
R199). -/
def storeArg {c : Config} (b : Block c) (off : Nat) (v : Reg) : Block c :=
  if off = 0x10 then { b with arg0Lo := v }
  else if off = 0x14 then { b with arg0Hi := v }
  else if off = 0x18 then { b with arg1Lo := v }
  else if off = 0x1C then { b with arg1Hi := v }
  else if off = 0x20 then { b with arg2Lo := v }
  else if off = 0x24 then { b with arg2Hi := v }
  else if off = 0x28 then { b with dim0 := v }
  else if off = 0x2C then { b with dim1 := v }
  else if off = 0x30 then { b with dim2 := v }
  else b

/-! ### Updates of the state -/

/-- Replace the block's registers. -/
def State.setBlock (s : State) (b : Block s.cfg) : State := { s with block := b }

/-- Replace the data memory. -/
def State.setMem (s : State) (m : Mem) : State := { s with mem := m }

/-- Record a request of the block on the bus. -/
def State.record (s : State) (r : Request) : State := { s with trace := s.trace ++ [r] }

/-- Hand the host the answer of a read. -/
def State.answer (s : State) (a : Answer) : State := { s with answers := s.answers ++ [a] }

/-- Note whether output words from now on are any value. -/
def State.setTainted (s : State) (t : Bool) : State := { s with tainted := t }

/-- Count `n` more free values as used. -/
def State.useFree (s : State) (n : Nat) : State := { s with fresh := s.fresh + n }

/-- Take the first turn off the schedule. -/
def State.setSchedule (s : State) (ts : List Turn) : State := { s with schedule := ts }

/-- Replace the host's remaining lines. -/
def State.setProgram (s : State) (ls : List HostLine) : State := { s with program := ls }

/-- Give every byte of a region any value (log 7). -/
def State.havoc (s : State) (r : Region) : State :=
  (s.setMem (s.mem.writeBytes r.base (freeBytes s.fresh r.len))).useFree r.len

/-! ### The two ways a command ends -/

/-- `raise Error(code)`, the block's one exception (60_exceptions.md R230): STATUS takes the code and the sequencer
stays idle; OP, the arguments, the data path and memory are unchanged. There is no return from it (R234): the next
launch clears the result (`Status.cleared`). -/
def raiseError {c : Config} (code : ErrCode) (b : Block c) : Block c :=
  { b with status := Status.failed code, fsm := .idle }

/-- Normal completion (R232). -/
def complete {c : Config} (b : Block c) : Block c :=
  { b with status := Status.completed, fsm := .idle }

end Sys2Proof.Machine
end

