-- ==== Sys2Proof/Machine/Codec.lean ====
section
/-!
DEFINITION. The Packed Word Codec (40_codec.md), combinational: lanes, words, streams, and the multiply-reduce over
lanes (42_multiply.md R159). W is the argument `w`, DATAWIDTH the width `dw` of the word.
-/
namespace Sys2Proof.Machine

/-! ### Lanes (R110, R111) -/

/-- `lane_get(v, k)`: bits [W*k + W - 1 : W*k]. -/
def laneGet {dw : Nat} (w : Nat) (v : BitVec dw) (k : Nat) : BitVec w :=
  v.extractLsb' (w * k) w

/-- `lane_set(v, k, e)`: lane k becomes `e`, every other bit is unchanged. -/
def laneSet {dw w : Nat} (v : BitVec dw) (k : Nat) (e : BitVec w) : BitVec dw :=
  (v &&& ~~~((BitVec.allOnes w).setWidth dw <<< (w * k))) ||| (e.setWidth dw <<< (w * k))

/-- `lane_get` with its contract checked: an index k >= L is refused (R118). -/
def laneGetChecked (c : Config) (v : BitVec c.dataWidth) (k : Nat) : Except Refusal (BitVec c.elemWidth) :=
  if k < c.lanes then .ok (laneGet c.elemWidth v k) else .error (.laneIndex k)

/-- `lane_set` with its contract checked (R118). -/
def laneSetChecked (c : Config) (v : BitVec c.dataWidth) (k : Nat) (e : BitVec c.elemWidth) :
    Except Refusal (BitVec c.dataWidth) :=
  if k < c.lanes then .ok (laneSet v k e) else .error (.laneIndex k)

/-! ### Words (R112, R113) -/

/-- `unpack(v)`: the L elements of a word, lane 0 first. -/
def unpack (c : Config) (v : BitVec c.dataWidth) : List (BitVec c.elemWidth) :=
  (List.range c.lanes).map (laneGet c.elemWidth v)

/-- The sum of e[k] * 2^(W*k) (R113). -/
def packNat {w : Nat} : List (BitVec w) → Nat
  | [] => 0
  | e :: es => e.toNat + 2 ^ w * packNat es

/-- `pack(e)`: one word from L elements. -/
def pack (c : Config) (es : List (BitVec c.elemWidth)) : BitVec c.dataWidth :=
  BitVec.ofNat c.dataWidth (packNat es)

/-! ### Matrices and streams (00_scope.md R14, R115 to R119) -/

/-- A matrix of W-bit values with its elements in row-major order (R14). -/
structure Matrix (w : Nat) where
  rows : Nat
  cols : Nat
  flat : List (BitVec w)
deriving DecidableEq, Repr

/-- Every element is there: rows * cols of them. -/
def Matrix.wf {w : Nat} (x : Matrix w) : Bool := x.flat.length == x.rows * x.cols

/-- M[r][c], which has flat index r*cols + c (R14). -/
def Matrix.get {w : Nat} (x : Matrix w) (r k : Nat) : BitVec w := x.flat.getD (r * x.cols + k) 0

/-- The matrix with the given elements. -/
def Matrix.ofFn {w : Nat} (rows cols : Nat) (f : Nat → Nat → BitVec w) : Matrix w :=
  { rows := rows, cols := cols, flat := (List.range (rows * cols)).map fun e => f (e / cols) (e % cols) }

/-- Word t of the stream of a list of elements: `pack` of elements t*L to t*L + L - 1 (R115). -/
def packChunk (c : Config) (es : List (BitVec c.elemWidth)) (t : Nat) : BitVec c.dataWidth :=
  pack c ((List.range c.lanes).map fun k => es.getD (t * c.lanes + k) 0)

/-- `encode(X)` (R115), defined only when R*K is a multiple of L; any other shape is refused (R118). -/
def encodeMatrix (c : Config) (x : Matrix c.elemWidth) : Except Refusal (List (BitVec c.dataWidth)) :=
  if x.rows * x.cols % c.lanes = 0 then
    .ok ((List.range (x.rows * x.cols / c.lanes)).map (packChunk c x.flat))
  else .error .codecShape

/-- Element e of a packed stream: lane e mod L of word e div L (R116, R119). -/
def streamElem (c : Config) (ws : List (BitVec c.dataWidth)) (e : Nat) : BitVec c.elemWidth :=
  laneGet c.elemWidth (ws.getD (e / c.lanes) 0) (e % c.lanes)

/-- `decode(S, (R, K))` (R116); a shape that does not match the length is refused (R118). -/
def decodeStream (c : Config) (ws : List (BitVec c.dataWidth)) (rows cols : Nat) :
    Except Refusal (Matrix c.elemWidth) :=
  if rows * cols % c.lanes = 0 ∧ ws.length = rows * cols / c.lanes then
    .ok { rows := rows, cols := cols, flat := (List.range (rows * cols)).map (streamElem c ws) }
  else .error .codecShape

/-- Element e of the packed stream at byte address `a` in memory (R119). -/
def memElem (c : Config) (m : Mem) (a e : Nat) : BitVec c.elemWidth :=
  laneGet c.elemWidth (memWord c m (a + e / c.lanes * c.wordBytes)) (e % c.lanes)

/-! ### The multiply-reduce (42_multiply.md R159) -/

/-- `dot(a, b)`: the exact sum of the exact lane products, truncated to W bits. -/
def dot (c : Config) (a b : BitVec c.dataWidth) : BitVec c.elemWidth :=
  BitVec.ofNat c.elemWidth
    ((List.range c.lanes).map fun k =>
      (laneGet c.elemWidth a k).toNat * (laneGet c.elemWidth b k).toNat).sum

end Sys2Proof.Machine
end

