-- ==== Sys2Proof/Machine/Operands.lean ====
section
/-!
DEFINITION. The operands of a command: how they are assembled from the control registers (30_encoding.md R87 to R89),
the regions they name, and the entry checks over them (60_exceptions.md R231).
-/
namespace Sys2Proof.Machine

/-- The operands a launch reads: ARG0 to ARG2 as 64-bit byte addresses (R87), DIM0 to DIM2 as 32-bit unsigned integers
(R88), on mathematical integers. -/
structure Args where
  a0 : Nat
  a1 : Nat
  a2 : Nat
  d0 : Nat
  d1 : Nat
  d2 : Nat
deriving DecidableEq, Repr

/-- ARGn = {ARGn_HI, ARGn_LO}, zero-extended, with no scaling (R87). -/
def argAddr (hi lo : Reg) : Nat := (hi ++ lo).toNat

/-- The operands as the control registers stand. -/
def Block.args {c : Config} (b : Block c) : Args :=
  { a0 := argAddr b.arg0Hi b.arg0Lo
    a1 := argAddr b.arg1Hi b.arg1Lo
    a2 := argAddr b.arg2Hi b.arg2Lo
    d0 := b.dim0.toNat
    d1 := b.dim1.toNat
    d2 := b.dim2.toNat }

/-- NW of TRANSPOSE: rows * cols / L words (41_transpose.md R131). -/
def trnWords (c : Config) (g : Args) : Nat := g.d0 * g.d1 / c.lanes

/-- The input regions of a command (42_multiply.md R152, 41_transpose.md R133). -/
def inputRegions (c : Config) (op : BitVec 4) (g : Args) : List Region :=
  if op = 0#4 then [wordRegion c g.a0 g.d0, wordRegion c g.a1 (g.d2 * (g.d1 / c.lanes))]
  else [wordRegion c g.a0 (trnWords c g)]

/-- The output region of a command (R152, R133). -/
def outputRegion (c : Config) (op : BitVec 4) (g : Args) : Region :=
  if op = 0#4 then wordRegion c g.a2 g.d0 else wordRegion c g.a2 (trnWords c g)

/-- The address checks of R231: alignment (R227), then range (R228), then overlap (R229). -/
def addressCheck (c : Config) (inputs : List Region) (out : Region) : ErrCode :=
  if (inputs ++ [out]).any fun r => r.base % c.wordBytes != 0 then .align
  else if (inputs ++ [out]).any fun r => 2 ^ c.addrWidth < r.base + r.len then .range
  else if inputs.any fun r => overlaps r out then .overlap
  else .none

/-- `EntryCheck` (R231): the first error that applies, in the fixed order. -/
def entryCheck (c : Config) (op : BitVec 4) (g : Args) : ErrCode :=
  if op ≠ 0#4 ∧ op ≠ 1#4 then .op
  else if isPow2 g.d0 = false then .dim0
  else if op = 0#4 then
    if g.d1 ≠ c.lanes then .dim1
    else if g.d2 ≠ c.lanes then .dim2
    else addressCheck c (inputRegions c op g) (outputRegion c op g)
  else
    if isPow2 g.d1 = false then .dim1
    else if g.d0 * g.d1 % c.lanes ≠ 0 then .shape
    else addressCheck c (inputRegions c op g) (outputRegion c op g)

/-- A launch (45_control_port.md R192) of the command `op`: store OP, clear the old result, check, then either the
error completion within this transaction or BUSY with the sequencer armed. -/
def launch {c : Config} (op : BitVec 4) (b : Block c) : Block c :=
  let b1 := { b with op := op, status := b.status.cleared }
  match entryCheck c op b1.args with
  | .none => { b1 with status := b1.status.launched, fsm := if op = 0#4 then .mulInit else .trnRun }
  | code => raiseError code b1

/-- A START write of the command `op`: while BUSY it is ignored entirely (R193); otherwise it launches, and no duty of
R267 is broken yet for the new command. -/
def startCommand (op : BitVec 4) (s : State) : State :=
  if s.block.status.busy then s
  else (s.setBlock (launch op s.block)).setTainted false

end Sys2Proof.Machine
end

