-- ==== Sys2Proof/Machine/Multiply.lean ====
section
/-!
DEFINITION. MULTIPLY (42_multiply.md): its launch, and the micro-steps MUL_INIT, MUL_ROW, MUL_BLOAD, MUL_COL and
MUL_FLUSH with the request each one makes. The operands are read from the control registers, which cannot change while
BUSY (45_control_port.md R197).
-/
namespace Sys2Proof.Machine

/-- MULTIPLY's meaning: the launch of OP = 0 (R150, R151, 45_control_port.md R192). -/
def execMultiply (s : State) : Host.Outcome State Fault Refusal := .next (startCommand 0#4 s)

/-! ### Addresses (R150, R155 to R157) -/

/-- The address of in1 word t: row t of A. -/
def aWordAddr (c : Config) (g : Args) (t : Nat) : Nat := g.a0 + t * c.wordBytes

/-- The address of the transposed-B word of column t: in2 + t*(m/L)*WB. -/
def bWordAddr (c : Config) (g : Args) (t : Nat) : Nat := g.a1 + t * (g.d1 / c.lanes) * c.wordBytes

/-- The address of out word t: row t of C. -/
def cWordAddr (c : Config) (g : Args) (t : Nat) : Nat := g.a2 + t * c.wordBytes

/-! ### The request of each step: at most one (R154 to R157) -/

/-- The data-memory request MULTIPLY's next step makes, if it makes one. -/
def mulRequest {c : Config} (b : Block c) : Option Request :=
  match b.fsm with
  | .mulInit => some (.read (aWordAddr c b.args 0))
  | .mulRow => if b.i.toNat + 1 < b.args.d0 then some (.read (aWordAddr c b.args (b.i.toNat + 1))) else none
  | .mulBload => some (.read (bWordAddr c b.args 0))
  | .mulCol => if b.j.toNat + 1 < b.args.d2 then some (.read (bWordAddr c b.args (b.j.toNat + 1))) else none
  | .mulFlush => some (.write (cWordAddr c b.args b.i.toNat))
  | .idle => none
  | .trnRun => none

/-! ### The steps -/

/-- MUL_INIT: preload word 0 of the A stream (R154). -/
def mulInit {c : Config} (m : Mem) (b : Block c) : Block c :=
  { b with aCur := memWord c m (aWordAddr c b.args 0), i := 0, fsm := .mulRow }

/-- MUL_ROW: prefetch the A word of row i+1 and clear the output word (R155). -/
def mulRow {c : Config} (m : Mem) (b : Block c) : Block c :=
  let b1 :=
    if b.i.toNat + 1 < b.args.d0 then { b with aNext := memWord c m (aWordAddr c b.args (b.i.toNat + 1)) } else b
  { b1 with outWord := 0, fsm := .mulBload }

/-- MUL_BLOAD: load the transposed-B word of column 0 (R155). -/
def mulBload {c : Config} (m : Mem) (b : Block c) : Block c :=
  { b with bCur := memWord c m (bWordAddr c b.args 0), j := 0, fsm := .mulCol }

/-- The output-word packer: column j's result goes into lane j mod L (R161). -/
def packColumn {c : Config} (b : Block c) : BitVec c.dataWidth :=
  laneSet b.outWord (b.j.toNat % c.lanes) (dot c b.aCur b.bCur)

/-- MUL_COL: prefetch the word of column j+1, multiply-reduce the current one, pack it, swap (R156). -/
def mulCol {c : Config} (m : Mem) (b : Block c) : Block c :=
  if b.j.toNat + 1 < b.args.d2 then
    let next := memWord c m (bWordAddr c b.args (b.j.toNat + 1))
    { b with bNext := next, outWord := packColumn b, bCur := next, j := b.j + 1 }
  else { b with outWord := packColumn b, fsm := .mulFlush }

/-- The registers after MUL_FLUSH: swap to the next row, or complete (R157). -/
def mulFlushBlock {c : Config} (b : Block c) : Block c :=
  if b.i.toNat + 1 < b.args.d0 then { b with aCur := b.aNext, i := b.i + 1, fsm := .mulRow } else complete b

/-- The word MUL_FLUSH writes: out_word, or any value once the host has broken its duty (R267; log 14). -/
def flushWord (s : State) : BitVec s.cfg.dataWidth :=
  if s.tainted then Config.freeValue s.cfg.dataWidth s.fresh else s.block.outWord

/-- MUL_FLUSH: the single write of row i (R157). -/
def mulFlush (s : State) : State :=
  let m := setMemWord s.cfg s.mem (cWordAddr s.cfg s.block.args s.block.i.toNat) (flushWord s)
  ((s.setMem m).useFree (if s.tainted then 1 else 0)).setBlock (mulFlushBlock s.block)

end Sys2Proof.Machine
end

