-- ==== Sys2Proof/Machine/Transpose.lean ====
section
/-!
DEFINITION. TRANSPOSE (41_transpose.md): its launch, and TRN_RUN as one step that makes all its reads and then all its
writes, as R134 allows (log 11).
-/
namespace Sys2Proof.Machine

/-- TRANSPOSE's meaning: the launch of OP = 1 (R130, R131, 45_control_port.md R192). -/
def execTranspose (s : State) : Host.Outcome State Fault Refusal := .next (startCommand 1#4 s)

/-- TRANSPOSE's requests, as a set (R134). -/
def trnRequest {c : Config} (b : Block c) : Request := .transpose b.args.a0 b.args.a2 (trnWords c b.args)

/-- The source element that becomes destination element e: e = j*rows + k is source element k*cols + j (R132). -/
def trnSource (rows cols e : Nat) : Nat := e % rows * cols + e / rows

/-- Destination word t (R132). -/
def trnWord (c : Config) (m : Mem) (g : Args) (t : Nat) : BitVec c.dataWidth :=
  pack c ((List.range c.lanes).map fun k => memElem c m g.a0 (trnSource g.d0 g.d1 (t * c.lanes + k)))

/-- The words TRN_RUN writes: each destination word's final value, or any value once the host has broken its duty
(R267; log 14). -/
def trnOutput (s : State) : List (BitVec s.cfg.dataWidth) :=
  (List.range (trnWords s.cfg s.block.args)).map fun t =>
    if s.tainted then Config.freeValue s.cfg.dataWidth (s.fresh + t) else trnWord s.cfg s.mem s.block.args t

/-- TRN_RUN: write the destination stream and complete (R132, R134, 60_exceptions.md R232). -/
def trnRun (s : State) : State :=
  let m := setMemWords s.cfg s.mem s.block.args.a2 (trnOutput s)
  ((s.setMem m).useFree (if s.tainted then trnWords s.cfg s.block.args else 0)).setBlock (complete s.block)

end Sys2Proof.Machine
end

