-- ==== Sys2Proof/Machine/BlockTurn.lean ====
section
/-!
DEFINITION. One step of the block agent (00_scope.md R16): the micro-step its sequencer is in, guarded by the platform's
admission of the request that step makes (60_exceptions.md R236).
-/
namespace Sys2Proof.Machine

/-- The data-memory request the block is about to make, if its next step makes one. -/
def nextRequest {c : Config} (b : Block c) : Option Request :=
  if b.fsm = .trnRun then some (trnRequest b) else mulRequest b

/-- The micro-step of the current sequencer state, its request admitted. An idle block has no step (R262). -/
def microStep (s : State) : State :=
  match s.block.fsm with
  | .idle => s
  | .mulInit => s.setBlock (mulInit s.mem s.block)
  | .mulRow => s.setBlock (mulRow s.mem s.block)
  | .mulBload => s.setBlock (mulBload s.mem s.block)
  | .mulCol => s.setBlock (mulCol s.mem s.block)
  | .mulFlush => mulFlush s
  | .trnRun => trnRun s

/-- The block's turn. A request the platform refuses leaves the block without a step: BUSY, with fsm unchanged (R236);
an admitted one is recorded on the bus. -/
def blockTurn (s : State) : State :=
  match nextRequest s.block with
  | none => microStep s
  | some r => if admits s.cfg r then (microStep s).record r else s

end Sys2Proof.Machine
end

