-- ==== Sys2Proof/Machine/Dispatch.lean ====
section
/-!
DEFINITION. One arm per command: launching it. The steps a launched command then takes are the block's turns
(Sys2Proof/Machine/BlockTurn.lean).
-/
namespace Sys2Proof.Machine

def exec (i : Instr) (s : State) : Host.Outcome State Fault Refusal :=
  match i with
  | .multiply => Sys2Proof.Machine.execMultiply s
  | .transpose => Sys2Proof.Machine.execTranspose s

end Sys2Proof.Machine
end

