-- ==== Sys2Proof/Machine/ControlPort.lean ====
section
/-!
DEFINITION. The control port (45_control_port.md): the transactions a host makes.
-/
namespace Sys2Proof.Machine

/-- What makes a transaction inadmissible (R201), if anything does. -/
def portRefusal (off bits : Nat) : Option Refusal :=
  if bits ≠ 32 then some (.portWidth bits)
  else if off % 4 ≠ 0 then some (.portMisaligned off)
  else if 0x100 ≤ off then some (.portOffset off)
  else none

/-- write(CTRL, v) (R191 to R193). -/
def writeCtrl (v : Reg) (s : State) : Host.Outcome State Fault Refusal :=
  match decode v with
  | .command i => exec i s
  | .reservedOp op => .next (startCommand op s)
  | .noLaunch op => .next (if s.block.status.busy then s else s.setBlock { s.block with op := op })

/-- write(off, v) for any other admitted offset: an ARG or DIM register while idle (R197); STATUS (R196) and unmapped
offsets (R199) ignore it. -/
def writeOther (off : Nat) (v : Reg) (s : State) : State :=
  if s.block.status.busy then s else s.setBlock (storeArg s.block off v)

/-- One write transaction (30_encoding.md R90). -/
def portWrite (off bits : Nat) (v : Reg) (s : State) : Host.Outcome State Fault Refusal :=
  match portRefusal off bits with
  | some r => .refused r
  | none => if off = 0x00 then writeCtrl v s else .next (writeOther off v s)

/-- One read transaction: the host gets the value, nothing else changes (R194, R195, R198, R199). -/
def portRead (off bits : Nat) (s : State) : Host.Outcome State Fault Refusal :=
  match portRefusal off bits with
  | some r => .refused r
  | none => .next (s.answer (.port off (portValue s.block off)))

/-- The control offset of an address in the host's map, if it lies in the block's window (20_memory.md R59). -/
def portOffset (c : Config) (a : Nat) : Option Nat :=
  if c.ctrlBase ≤ a ∧ a < c.ctrlBase + 0x100 then some (a - c.ctrlBase) else none

/-- A write transaction by its address in the host's map (log 22). -/
def busWrite (a bits : Nat) (v : Reg) (s : State) : Host.Outcome State Fault Refusal :=
  match portOffset s.cfg a with
  | some off => portWrite off bits v s
  | none => .refused (.hostAddressOutsideControlSpace a)

/-- A read transaction by its address in the host's map (log 22). -/
def busRead (a bits : Nat) (s : State) : Host.Outcome State Fault Refusal :=
  match portOffset s.cfg a with
  | some off => portRead off bits s
  | none => .refused (.hostAddressOutsideControlSpace a)

end Sys2Proof.Machine
end

