-- ==== Sys2Proof/Machine/HostMemory.lean ====
section
/-!
DEFINITION. The host's own accesses to data memory (20_memory.md R50 (2), R54), and what becomes of them while a command
runs (70_reset_and_hazards.md R267).
-/
namespace Sys2Proof.Machine

/-- The output region of the running command. -/
def runningOutput (s : State) : Region := outputRegion s.cfg s.block.op s.block.args

/-- The input regions of the running command. -/
def runningInputs (s : State) : List Region := inputRegions s.cfg s.block.op s.block.args

/-- What the host reads at one address: an output byte of a running command is any value (R267), any other byte is
what memory holds (log 15).
DESIGN CHOICE: after a completion that is the final byte as soon as BUSY = 0, with no STATUS read of DONE = 1 in between,
a case in which 20_memory.md R63 (b) and R65 promise the host nothing (log 26). -/
def hostByte (s : State) (a : Nat) (k : Nat) : Byte :=
  if s.block.status.busy ∧ inRegion (runningOutput s) a then Config.freeValue 8 (s.fresh + k)
  else s.mem.readByte a

/-- The host reads `n` bytes from `a` on; bytes past 2^ADDR_WIDTH do not exist (log 17). -/
def hostRead (a n : Nat) (s : State) : Host.Outcome State Fault Refusal :=
  if 2 ^ s.cfg.addrWidth < a + n then .fault (.hostAddressOutsideMemory a)
  else .next ((s.answer (.mem a ((List.range n).map fun k => hostByte s (a + k) k))).useFree n)

/-- What a host write that has been performed breaks while a command runs: a byte of the output region makes the whole
region any value now, and it or a byte of an input region makes every later output word any value (R267; log 14). -/
def breakDuty (written : Region) (s : State) : State :=
  if s.block.status.busy = false then s
  else if overlaps written (runningOutput s) then (s.havoc (runningOutput s)).setTainted true
  else if (runningInputs s).any fun r => overlaps written r then s.setTainted true
  else s

/-- The host writes bytes from `a` on. -/
def hostWrite (a : Nat) (bytes : List Byte) (s : State) : Host.Outcome State Fault Refusal :=
  if 2 ^ s.cfg.addrWidth < a + bytes.length then .fault (.hostAddressOutsideMemory a)
  else .next (breakDuty { base := a, len := bytes.length } (s.setMem (s.mem.writeBytes a bytes)))

end Sys2Proof.Machine
end

