-- ==== Sys2Proof/Machine/HostTurn.lean ====
section
/-!
DEFINITION. One step of the host agent: the next line of its program (30_encoding.md R92), and the spec's
pseudo-instructions as lists of lines (R93).
-/
namespace Sys2Proof.Machine

/-- One read of a `poll`: the line is done once (value AND MASK) == VAL and is repeated otherwise (R92). -/
def pollOnce (off : Nat) (mask val : Reg) (s : State) : Host.Outcome State Fault Refusal :=
  if portValue s.block off &&& mask = val then portRead off 32 s
  else portRead off 32 (s.setProgram (.poll off mask val :: s.program))

/-- What a line of the host's program does; `s` has that line already taken off. -/
def hostLine (l : HostLine) (s : State) : Host.Outcome State Fault Refusal :=
  match l with
  | .wr off bits v => portWrite off bits v s
  | .rd off bits => portRead off bits s
  | .poll off mask val => pollOnce off mask val s
  | .busWr a bits v => busWrite a bits v s
  | .busRd a bits => busRead a bits s
  | .memWr a bytes => hostWrite a bytes s
  | .memRd a n => hostRead a n s

/-- The host's turn: its next line, or nothing once its program has ended. -/
def hostTurn (s : State) : Host.Outcome State Fault Refusal :=
  match s.program with
  | [] => .next s
  | l :: ls => hostLine l (s.setProgram ls)

/-! ### The notation of R92 and R93 -/

/-- `mem ADDR: W0 W1 ...`: the host writes packed words, each given as a number (R92). -/
def memLine (c : Config) (a : Nat) (ws : List Nat) : HostLine :=
  .memWr a (ws.flatMap fun v => leBytes (BitVec.ofNat c.dataWidth v) c.wordBytes)

/-- `wr OFF, VAL` as an admitted transaction. -/
def wrLine (off : Nat) (v : Reg) : HostLine := .wr off 32 v

/-- The offset of ARGn_LO (10_state.md R21). -/
def argOffset (n : Nat) : Nat := 0x10 + 8 * n

/-- `setarg N, X`. -/
def setargLines (n : Nat) (x : BitVec 64) : List HostLine :=
  [wrLine (argOffset n) (x.extractLsb' 0 32), wrLine (argOffset n + 4) (x.extractLsb' 32 32)]

/-- `launch OP`: the command word (OP << 4) OR 1. -/
def launchLines (op : BitVec 4) : List HostLine :=
  [wrLine 0x00 ((op.setWidth 32 <<< 4) ||| 1#32)]

/-- `wait`: poll until BUSY = 0 and DONE = 1. -/
def waitLines : List HostLine := [.poll 0x04 0x3#32 0x2#32]

/-- `multiply IN1, IN2T, OUT, N, M, P`. -/
def multiplyLines (in1 in2t out : BitVec 64) (n m p : Reg) : List HostLine :=
  setargLines 0 in1 ++ setargLines 1 in2t ++ setargLines 2 out ++
    [wrLine 0x28 n, wrLine 0x2C m, wrLine 0x30 p] ++ launchLines 0#4 ++ waitLines

/-- `transpose SRC, DST, ROWS, COLS`. -/
def transposeLines (src dst : BitVec 64) (rows cols : Reg) : List HostLine :=
  setargLines 0 src ++ setargLines 2 dst ++ [wrLine 0x28 rows, wrLine 0x2C cols] ++ launchLines 1#4 ++ waitLines

/-! ### Whose turn it is -/

/-- The agent that moves when the schedule says nothing more.
DESIGN CHOICE: the block while it is BUSY, the host otherwise (log 8). -/
def unscheduledTurn (s : State) : Turn := if s.block.status.busy then .block else .host

/-- Place the command word `w` of `nbits` bits as the host's next line, a write to CTRL, and give the host the next
turn: the very next step performs that write (log 9). -/
def placeCommand (s : State) (nbits w : Nat) : State :=
  (s.setProgram (wrLine 0x00 (BitVec.ofNat 32 (w % 2 ^ nbits)) :: s.program)).setSchedule (.host :: s.schedule)

end Sys2Proof.Machine
end

