-- ==== Sys2Proof/Machine/ResetTurn.lean ====
section
/-!
DEFINITION. Reset as an event of a run (70_reset_and_hazards.md R260, R261).
-/
namespace Sys2Proof.Machine

/-- The block after reset is asserted: the control registers 0, fsm IDLE, and every data-path register and counter
unspecified, a free value each (10_state.md R41; log 6). -/
def resetBlock (c : Config) (n : Nat) : Block c :=
  { Block.reset c with
    i := Config.freeValue 32 n
    j := Config.freeValue 32 (n + 1)
    aCur := Config.freeValue c.dataWidth (n + 2)
    aNext := Config.freeValue c.dataWidth (n + 3)
    bCur := Config.freeValue c.dataWidth (n + 4)
    bNext := Config.freeValue c.dataWidth (n + 5)
    outWord := Config.freeValue c.dataWidth (n + 6) }

/-- The bytes a reset leaves at any value: the running command's output region, or none while idle (R261). -/
def abortedRegion (s : State) : Region :=
  { base := (runningOutput s).base, len := if s.block.status.busy then (runningOutput s).len else 0 }

/-- Reset: the aborted region becomes any value (R261), no other byte of memory changes (R260), the block resets. -/
def resetTurn (s : State) : State :=
  (((s.havoc (abortedRegion s)).setBlock (resetBlock s.cfg (s.fresh + (abortedRegion s).len))).setTainted false).useFree 7

end Sys2Proof.Machine
end

