-- ==== Sys2Proof/Machine/Step.lean ====
section
/-!
DEFINITION. One step of the machine: one turn of one agent (45_control_port.md R190, 60_exceptions.md R238).
-/
namespace Sys2Proof.Machine

/-- One turn of the named agent. -/
def turn (t : Turn) (s : State) : Host.Outcome State Fault Refusal :=
  match t with
  | .host => hostTurn s
  | .block => .next (blockTurn s)
  | .reset => .next (resetTurn s)

/-- The agent the schedule names moves; with the schedule used up, `unscheduledTurn` says who does (log 8). -/
def step (s : State) : Host.Outcome State Fault Refusal :=
  match s.schedule with
  | [] => turn (unscheduledTurn s) s
  | t :: ts => turn t (s.setSchedule ts)

/-- Place a command word where the next step performs it (log 9). -/
def State.withFetchWord (s : State) (nbits w : Nat) : State := placeCommand s nbits w

end Sys2Proof.Machine
end

