-- ==== Sys2Proof/Safety.lean ====
section
/-!
DEFINITION. The terms claims are stated in: what the commands should compute (the oracles of 41_transpose.md R132 and
42_multiply.md R153), the exact request sequence of MULTIPLY (R158), the invariants of a run, stuck and ended runs, and
the duties of a host.
-/
namespace Sys2Proof.Machine

/-! ### What the commands compute -/

/-- C[i][j] = trunc_W(sum over k of A[i][k] * T[j][k]) (R153): the function of the Reference Multiplier. -/
def referenceProduct {w : Nat} (a t : Matrix w) : Matrix w :=
  Matrix.ofFn a.rows t.rows fun i j =>
    BitVec.ofNat w ((List.range a.cols).map fun k => (a.get i k).toNat * (t.get j k).toNat).sum

/-- The matrix product A*B mod 2^W, element by element. -/
def matrixProduct {w : Nat} (a b : Matrix w) : Matrix w :=
  Matrix.ofFn a.rows b.cols fun i j =>
    BitVec.ofNat w ((List.range a.cols).map fun k => (a.get i k).toNat * (b.get k j).toNat).sum

/-- T = B^T: T[j][k] = B[k][j] (R132). -/
def Matrix.transposed {w : Nat} (b : Matrix w) : Matrix w :=
  Matrix.ofFn b.cols b.rows fun j k => b.get k j

/-! ### The request sequence of MULTIPLY (R158) -/

/-- The reads of row i's transposed-B words after the first: R in2 + (j+1)*WB for each j with j+1 < p. -/
def columnPrefetches (c : Config) (g : Args) : List Request :=
  (List.range g.d2).flatMap fun j => if j + 1 < g.d2 then [.read (g.a1 + (j + 1) * c.wordBytes)] else []

/-- The requests of row i. -/
def rowRequests (c : Config) (g : Args) (i : Nat) : List Request :=
  (if i + 1 < g.d0 then [.read (g.a0 + (i + 1) * c.wordBytes)] else []) ++ [.read g.a1] ++ columnPrefetches c g ++
    [.write (g.a2 + i * c.wordBytes)]

/-- The exact request sequence of one MULTIPLY. -/
def mulRequests (c : Config) (g : Args) : List Request :=
  .read g.a0 :: (List.range g.d0).flatMap (rowRequests c g)

/-- The number of block steps of one MULTIPLY (R158, R168). -/
def mulSteps (g : Args) : Nat := 1 + g.d0 * (g.d2 + 3)

/-- The requests of one run of a command. -/
def commandRequests (c : Config) (i : Instr) (g : Args) : List Request :=
  match i with
  | .multiply => mulRequests c g
  | .transpose => [.transpose g.a0 g.a2 (trnWords c g)]

/-- The number of block steps of one run of a command; TRANSPOSE's is the model's one step (R134, log 11). -/
def commandSteps (i : Instr) (g : Args) : Nat :=
  match i with
  | .multiply => mulSteps g
  | .transpose => 1

/-- Launch a command and let the machine take as many steps as the command has. -/
def runCommand (i : Instr) (s : State) : Host.Outcome State Fault Refusal :=
  match exec i s with
  | .next s1 => Sys2Proof.core.run (commandSteps i s.block.args) s1
  | .fault f => .fault f
  | .refused r => .refused r

/-! ### What a launch leaves (45_control_port.md R192, 60_exceptions.md R230) -/

/-- The state after a launch whose checks pass. -/
def armed (op : BitVec 4) (f : Fsm) (s : State) : State :=
  (s.setBlock
    { s.block with op := op, status := { busy := true, done := false, err := false, errcode := 0 }, fsm := f }).setTainted
    false

/-- The state after a launch that reports the error `code`. -/
def failedLaunch (op : BitVec 4) (code : BitVec 8) (s : State) : State :=
  (s.setBlock
    { s.block with
      op := op, status := { busy := false, done := true, err := true, errcode := code }, fsm := .idle }).setTainted false

/-- Two regions share a byte (20_memory.md R60). -/
def sharesByte (r q : Region) : Prop := ∃ a, inRegion r a = true ∧ inRegion q a = true

/-! ### Requests in range (20_memory.md R55) -/

/-- One packed word at `a` is aligned and inside the address space. -/
def wordInRange (c : Config) (a : Nat) : Prop := a % c.wordBytes = 0 ∧ a + c.wordBytes ≤ 2 ^ c.addrWidth

/-- Every word a request touches is aligned and inside the address space. -/
def requestInRange (c : Config) : Request → Prop
  | .read a => wordInRange c a
  | .write a => wordInRange c a
  | .transpose src dst nw =>
    ∀ t < nw, wordInRange c (src + t * c.wordBytes) ∧ wordInRange c (dst + t * c.wordBytes)

/-! ### Invariants -/

/-- The invariants of STATUS in 10_state.md R23, and the error codes that occur (60_exceptions.md R221). -/
structure StatusOk (st : Status) : Prop where
  busy_clear : st.busy = true → st.done = false ∧ st.err = false ∧ st.errcode = 0
  err_done : st.err = true → st.done = true ∧ st.errcode ≠ 0
  no_err : st.err = false → st.errcode = 0
  known_code : st.errcode.toNat ≤ 8

/-- fsm = IDLE exactly when STATUS.BUSY = 0 (10_state.md R36). -/
def sequencerOk {c : Config} (b : Block c) : Prop := b.fsm = .idle ↔ b.status.busy = false

/-- The MULTIPLY states in which a row is being computed. -/
def inRow (f : Fsm) : Bool :=
  match f with
  | .mulRow => true
  | .mulBload => true
  | .mulCol => true
  | .mulFlush => true
  | .idle => false
  | .mulInit => false
  | .trnRun => false

/-- A running command passed its checks, its sequencer belongs to its OP, and its counters are in range (R36). -/
structure CommandOk (c : Config) (b : Block c) : Prop where
  checked : b.status.busy = true → entryCheck c b.op b.args = .none
  multiply_states : b.status.busy = true → b.op = 0#4 → b.fsm ≠ .trnRun
  transpose_state : b.status.busy = true → b.op ≠ 0#4 → b.fsm = .trnRun
  row_counter : inRow b.fsm = true → b.i.toNat < b.args.d0
  column_counter : b.fsm = .mulCol → b.j.toNat < b.args.d2

/-- in1 word t as memory stands. -/
def rowWord (s : State) (t : Nat) : BitVec s.cfg.dataWidth :=
  memWord s.cfg s.mem (aWordAddr s.cfg s.block.args t)

/-- in2 word t as memory stands. -/
def columnWord (s : State) (t : Nat) : BitVec s.cfg.dataWidth :=
  memWord s.cfg s.mem (bWordAddr s.cfg s.block.args t)

/-- out word t as memory stands. -/
def outputWord (s : State) (t : Nat) : BitVec s.cfg.dataWidth :=
  memWord s.cfg s.mem (cWordAddr s.cfg s.block.args t)

/-- Lanes below `k` of a word hold row r's results. -/
def lanesHold (s : State) (v : BitVec s.cfg.dataWidth) (r k : Nat) : Prop :=
  ∀ x < k, laneGet s.cfg.elemWidth v x = dot s.cfg (rowWord s r) (columnWord s x)

/-- The double-buffer invariants of 42_multiply.md R163 and the rows already written. -/
structure MulProgress (s : State) : Prop where
  row_loaded : inRow s.block.fsm = true → s.block.aCur = rowWord s s.block.i.toNat
  next_row_loaded : inRow s.block.fsm = true → s.block.fsm ≠ .mulRow → s.block.i.toNat + 1 < s.block.args.d0 →
    s.block.aNext = rowWord s (s.block.i.toNat + 1)
  column_loaded : s.block.fsm = .mulCol → s.block.bCur = columnWord s s.block.j.toNat
  lanes_packed : s.block.fsm = .mulCol → lanesHold s s.block.outWord s.block.i.toNat s.block.j.toNat
  row_packed : s.block.fsm = .mulFlush → lanesHold s s.block.outWord s.block.i.toNat s.block.args.d2
  rows_written : inRow s.block.fsm = true → ∀ r < s.block.i.toNat, lanesHold s (outputWord s r) r s.block.args.d2

/-- The invariant of a run: the block is consistent, and an undisturbed MULTIPLY has computed what it should so far. -/
structure RunOk (s : State) : Prop where
  config : s.cfg.wf = true
  memory : s.mem.wf = true
  status : StatusOk s.block.status
  sequencer : sequencerOk s.block
  command : CommandOk s.cfg s.block
  progress : s.block.status.busy = true → s.block.op = 0#4 → s.tainted = false → MulProgress s

/-! ### Stuck and ended runs -/

/-- The block is BUSY and the platform refuses the request it is about to make (60_exceptions.md R236). -/
def stuck (s : State) : Bool :=
  s.block.status.busy &&
    match nextRequest s.block with
    | some r => !admits s.cfg r
    | none => false

/-- The value a read of STATUS answered; no other answer is one. -/
def statusAnswer : Answer → Option Reg
  | .port off v => if off = 0x04 then some v else none
  | .mem _ _ => none

/-- The last STATUS read returned DONE = 1 (70_reset_and_hazards.md R272 (c)). -/
def lastStatusDone (as : List Answer) : Bool :=
  match (as.filterMap statusAnswer).getLast? with
  | some v => v.getLsbD 1
  | none => false

/-- A run of a host program has ended successfully (R272). -/
def runEnded (s : State) : Bool :=
  s.program.isEmpty && s.block.fsm == .idle && lastStatusDone s.answers

/-! ### The host's duties (R268) -/

/-- A line keeps the host's duties while a command runs: it writes no input byte and touches no output byte (R267). -/
def keepsDuty (s : State) (l : HostLine) : Bool :=
  !s.block.status.busy ||
    match l with
    | .memWr a bytes =>
      !overlaps { base := a, len := bytes.length } (runningOutput s) &&
        (runningInputs s).all fun r => !overlaps { base := a, len := bytes.length } r
    | .memRd a n => !overlaps { base := a, len := n } (runningOutput s)
    | .wr _ _ _ => true
    | .rd _ _ => true
    | .poll _ _ _ => true
    | .busWr _ _ _ => true
    | .busRd _ _ => true

end Sys2Proof.Machine
end

