-- ==== Sys2Proof/Certificates/Slice0/Obligations.lean ====
section
/-!
DEFINITION. The statements for the provers. Each docstring names the rule of spec/ it formalises.
-/

open Sys2Proof Sys2Proof.Machine

/-! ### Command words (30_encoding.md) -/

/-- R82: OP = 0 is MULTIPLY, OP = 1 is TRANSPOSE, OP 2 to 15 is reserved, each through the match value under the mask
0x000000F1; a word with START = 0 launches nothing, whatever its OP. -/
def Obligations.CommandWordTable : Prop :=
  ∀ v : Reg,
    (v &&& 0x000000F1#32 = 0x00000001#32 → decode v = .command .multiply) ∧
    (v &&& 0x000000F1#32 = 0x00000011#32 → decode v = .command .transpose) ∧
    (∀ k, 2 ≤ k → k ≤ 15 → v &&& 0x000000F1#32 = BitVec.ofNat 32 (16 * k + 1) →
      decode v = .reservedOp (BitVec.ofNat 4 k) ∧
      ∀ s : State, s.block.status.busy = false →
        portWrite 0x00 32 v s = .next (failedLaunch (BitVec.ofNat 4 k) 1 s)) ∧
    (v.getLsbD 0 = false → ∀ s : State, ∃ op,
      portWrite 0x00 32 v s = .next (if s.block.status.busy then s else s.setBlock { s.block with op := op }))

/-- R84: a word with reserved bits set decodes as the same word with them clear, and CTRL reads them back as 0. -/
def Obligations.ReservedBitsAreIgnored : Prop :=
  (∀ v : Reg, decode v = decode (v &&& 0x000000F1#32)) ∧
  (∀ v r : Reg, r &&& 0x000000F1#32 = 0#32 → decode (v ^^^ r) = decode v) ∧
  (∀ (c : Config) (b : Block c), portValue b 0x00 &&& 0xFFFFFF0F#32 = 0#32)

/-- Decode and encode agree: a word decodes to a command exactly when, under the mask of R83, it is that command's
encoding. -/
def Obligations.DecodeAgreesWithEncode : Prop :=
  ∀ (i : Instr) (v : Reg), i.wf = true → (decode v = .command i ↔ v &&& decodeMask = encode i)

/-- Words written out bit by bit from R81 and R82. -/
def Obligations.HandWrittenWordsDecode : Prop :=
  decode 0b00000000000000000000000000000001#32 = .command .multiply ∧
  decode 0b11111111111111111111111100001111#32 = .command .multiply ∧
  decode 0b00000000000000000000000000010001#32 = .command .transpose ∧
  decode 0b11111111111111111111111100011111#32 = .command .transpose ∧
  decode 0b00000000000000000000000000100001#32 = .reservedOp 2#4 ∧
  decode 0b00000000000000000000000011110001#32 = .reservedOp 15#4 ∧
  decode 0b00000000000000000000000000010000#32 = .noLaunch 1#4

/-! ### A step runs the decoded command -/

/-- When the host moves next and its next line writes a word to CTRL that decodes to `i`, the step is `exec i` at the
state with that turn and that line taken off; so it is when the schedule is used up and the block is idle. -/
def Obligations.StepRunsDecodedCommand : Prop :=
  (∀ (s : State) (ts : List Turn) (ls : List HostLine) (v : Reg) (i : Instr),
    s.schedule = .host :: ts → s.program = .wr 0x00 32 v :: ls → decode v = .command i →
      step s = exec i ((s.setSchedule ts).setProgram ls)) ∧
  (∀ (s : State) (ls : List HostLine) (v : Reg) (i : Instr),
    s.schedule = [] → s.block.status.busy = false → s.program = .wr 0x00 32 v :: ls → decode v = .command i →
      step s = exec i (s.setProgram ls))

/-- A placed command word is run by the very next step, on the state it was placed in. -/
def Obligations.PlacedWordRunsNext : Prop :=
  ∀ (s : State) (nbits w : Nat) (i : Instr), i.wf = true → decodeTableWord nbits w = some i →
    step (s.withFetchWord nbits w) = exec i s

/-! ### Launching a command (R131, R151, R192, R222 to R231) -/

/-- R151: MULTIPLY's entry checks in their order; the first that fails ends the launch with its code and no memory
access, and if every check passes BUSY is set and the sequencer is in MUL_INIT. -/
def Obligations.MultiplyEntryChecks : Prop :=
  ∀ s : State, s.cfg.wf = true → s.block.status.busy = false →
    ((¬∃ k, s.block.args.d0 = 2 ^ k) → exec .multiply s = .next (failedLaunch 0 2 s)) ∧
    ((∃ k, s.block.args.d0 = 2 ^ k) →
      (s.block.args.d1 ≠ s.cfg.lanes → exec .multiply s = .next (failedLaunch 0 3 s)) ∧
      (s.block.args.d1 = s.cfg.lanes →
        (s.block.args.d2 ≠ s.cfg.lanes → exec .multiply s = .next (failedLaunch 0 4 s)) ∧
        (s.block.args.d2 = s.cfg.lanes →
          (¬(s.cfg.wordBytes ∣ s.block.args.a0 ∧ s.cfg.wordBytes ∣ s.block.args.a1 ∧ s.cfg.wordBytes ∣ s.block.args.a2) →
            exec .multiply s = .next (failedLaunch 0 6 s)) ∧
          (s.cfg.wordBytes ∣ s.block.args.a0 ∧ s.cfg.wordBytes ∣ s.block.args.a1 ∧ s.cfg.wordBytes ∣ s.block.args.a2 →
            (¬(s.block.args.a0 + s.block.args.d0 * s.cfg.wordBytes ≤ 2 ^ s.cfg.addrWidth ∧
                s.block.args.a1 + s.block.args.d2 * (s.block.args.d1 / s.cfg.lanes) * s.cfg.wordBytes
                  ≤ 2 ^ s.cfg.addrWidth ∧
                s.block.args.a2 + s.block.args.d0 * s.cfg.wordBytes ≤ 2 ^ s.cfg.addrWidth) →
              exec .multiply s = .next (failedLaunch 0 7 s)) ∧
            (s.block.args.a0 + s.block.args.d0 * s.cfg.wordBytes ≤ 2 ^ s.cfg.addrWidth ∧
                s.block.args.a1 + s.block.args.d2 * (s.block.args.d1 / s.cfg.lanes) * s.cfg.wordBytes
                  ≤ 2 ^ s.cfg.addrWidth ∧
                s.block.args.a2 + s.block.args.d0 * s.cfg.wordBytes ≤ 2 ^ s.cfg.addrWidth →
              (sharesByte (wordRegion s.cfg s.block.args.a2 s.block.args.d0)
                    (wordRegion s.cfg s.block.args.a0 s.block.args.d0) ∨
                  sharesByte (wordRegion s.cfg s.block.args.a2 s.block.args.d0)
                    (wordRegion s.cfg s.block.args.a1 (s.block.args.d2 * (s.block.args.d1 / s.cfg.lanes))) →
                exec .multiply s = .next (failedLaunch 0 8 s)) ∧
              (¬(sharesByte (wordRegion s.cfg s.block.args.a2 s.block.args.d0)
                    (wordRegion s.cfg s.block.args.a0 s.block.args.d0) ∨
                  sharesByte (wordRegion s.cfg s.block.args.a2 s.block.args.d0)
                    (wordRegion s.cfg s.block.args.a1 (s.block.args.d2 * (s.block.args.d1 / s.cfg.lanes)))) →
                exec .multiply s = .next (armed 0 .mulInit s)))))))

/-- R131: TRANSPOSE's entry checks in their order, with NW = rows*cols/L; ARG1 and DIM2 take no part. -/
def Obligations.TransposeEntryChecks : Prop :=
  ∀ s : State, s.cfg.wf = true → s.block.status.busy = false →
    ∀ nw, nw = s.block.args.d0 * s.block.args.d1 / s.cfg.lanes →
    ((¬∃ k, s.block.args.d0 = 2 ^ k) → exec .transpose s = .next (failedLaunch 1 2 s)) ∧
    ((∃ k, s.block.args.d0 = 2 ^ k) →
      ((¬∃ k, s.block.args.d1 = 2 ^ k) → exec .transpose s = .next (failedLaunch 1 3 s)) ∧
      ((∃ k, s.block.args.d1 = 2 ^ k) →
        (s.block.args.d0 * s.block.args.d1 % s.cfg.lanes ≠ 0 → exec .transpose s = .next (failedLaunch 1 5 s)) ∧
        (s.block.args.d0 * s.block.args.d1 % s.cfg.lanes = 0 →
          (¬(s.cfg.wordBytes ∣ s.block.args.a0 ∧ s.cfg.wordBytes ∣ s.block.args.a2) →
            exec .transpose s = .next (failedLaunch 1 6 s)) ∧
          (s.cfg.wordBytes ∣ s.block.args.a0 ∧ s.cfg.wordBytes ∣ s.block.args.a2 →
            (¬(s.block.args.a0 + nw * s.cfg.wordBytes ≤ 2 ^ s.cfg.addrWidth ∧
                s.block.args.a2 + nw * s.cfg.wordBytes ≤ 2 ^ s.cfg.addrWidth) →
              exec .transpose s = .next (failedLaunch 1 7 s)) ∧
            (s.block.args.a0 + nw * s.cfg.wordBytes ≤ 2 ^ s.cfg.addrWidth ∧
                s.block.args.a2 + nw * s.cfg.wordBytes ≤ 2 ^ s.cfg.addrWidth →
              (sharesByte (wordRegion s.cfg s.block.args.a2 nw) (wordRegion s.cfg s.block.args.a0 nw) →
                exec .transpose s = .next (failedLaunch 1 8 s)) ∧
              (¬sharesByte (wordRegion s.cfg s.block.args.a2 nw) (wordRegion s.cfg s.block.args.a0 nw) →
                exec .transpose s = .next (armed 1 .trnRun s)))))))

/-- R223: E_DIM0 is raised exactly when DIM0 is not one of 2^0 to 2^31, for either command. -/
def Obligations.Dim0MustBePowerOfTwo : Prop :=
  ∀ (s : State) (i : Instr), i.wf = true → s.block.status.busy = false →
    ((∀ k ≤ 31, s.block.dim0.toNat ≠ 2 ^ k) → exec i s = .next (failedLaunch i.op 2 s)) ∧
    (∀ k ≤ 31, s.block.dim0.toNat = 2 ^ k → ∀ t, exec i s = .next t → t.block.status.errcode ≠ 2)

/-- R222: START = 1 with OP in 2 to 15, written while idle, is E_OP. -/
def Obligations.ReservedOpRaisesError : Prop :=
  ∀ (s : State) (v : Reg), s.block.status.busy = false → v.getLsbD 0 = true → 2 ≤ (v.extractLsb' 4 4).toNat →
    portWrite 0x00 32 v s = .next (failedLaunch (v.extractLsb' 4 4) 1 s)

/-- R230: the error completion of a launch: BUSY = 0, DONE = 1, ERR = 1, ERRCODE = the code, fsm IDLE; no request, no
memory, argument or data-path change. -/
def Obligations.ErrorCompletion : Prop :=
  ∀ (s : State) (v : Reg) (code : ErrCode), s.block.status.busy = false → v.getLsbD 0 = true → code ≠ .none →
    entryCheck s.cfg (v.extractLsb' 4 4) s.block.args = code →
    ∃ b : Block s.cfg, portWrite 0x00 32 v s = .next ((s.setBlock b).setTainted false) ∧
      b.status.busy = false ∧ b.status.done = true ∧ b.status.err = true ∧ b.status.errcode = code.byte ∧
      b.fsm = .idle ∧ b.op = v.extractLsb' 4 4 ∧
      (∀ off, off ≠ 0x00 → off ≠ 0x04 → portValue b off = portValue s.block off) ∧
      b.i = s.block.i ∧ b.j = s.block.j ∧ b.aCur = s.block.aCur ∧ b.aNext = s.block.aNext ∧ b.bCur = s.block.bCur ∧
      b.bNext = s.block.bNext ∧ b.outWord = s.block.outWord

/-- R193: a write to CTRL with BUSY = 1 is ignored entirely, and so is each command. -/
def Obligations.CommandWhileBusyIgnored : Prop :=
  ∀ (s : State) (v : Reg), s.block.status.busy = true →
    portWrite 0x00 32 v s = .next s ∧ ∀ i : Instr, i.wf = true → exec i s = .next s

/-- The frame of launching MULTIPLY or TRANSPOSE: only OP, STATUS and fsm (and the model's taint mark) may change; every
argument, counter, data-path register, byte of memory, answer, request, line, turn and free value stays. -/
def Obligations.LaunchFrame : Prop :=
  ∀ (i : Instr) (s t : State), i.wf = true → exec i s = .next t →
    (∀ a, t.mem.readByte a = s.mem.readByte a) ∧ t.trace = s.trace ∧ t.answers = s.answers ∧
    t.program = s.program ∧ t.schedule = s.schedule ∧ t.fresh = s.fresh ∧
    ∃ b : Block s.cfg, (∃ tnt, t = (s.setBlock b).setTainted tnt) ∧
      b.args = s.block.args ∧ b.arg0Lo = s.block.arg0Lo ∧ b.arg0Hi = s.block.arg0Hi ∧ b.arg1Lo = s.block.arg1Lo ∧
      b.arg1Hi = s.block.arg1Hi ∧ b.arg2Lo = s.block.arg2Lo ∧ b.arg2Hi = s.block.arg2Hi ∧ b.dim0 = s.block.dim0 ∧
      b.dim1 = s.block.dim1 ∧ b.dim2 = s.block.dim2 ∧ b.i = s.block.i ∧ b.j = s.block.j ∧ b.aCur = s.block.aCur ∧
      b.aNext = s.block.aNext ∧ b.bCur = s.block.bCur ∧ b.bNext = s.block.bNext ∧ b.outWord = s.block.outWord

/-! ### The control port (R191 to R201) -/

/-- R191: write(CTRL, v) with BUSY = 0 and v[0] = 0 stores OP and nothing else; a later read of CTRL returns it. -/
def Obligations.CtrlWriteWithoutStart : Prop :=
  ∀ (s : State) (v : Reg), s.block.status.busy = false → v.getLsbD 0 = false →
    portWrite 0x00 32 v s = .next (s.setBlock { s.block with op := v.extractLsb' 4 4 }) ∧
    portValue { s.block with op := v.extractLsb' 4 4 } 0x00 = v &&& 0x000000F0#32

/-- R194: read(CTRL) returns OP in bits 7:4 and 0 everywhere else, and has no side effect. -/
def Obligations.CtrlReadReturnsOp : Prop :=
  ∀ s : State, ∃ x : Reg, portRead 0x00 32 s = .next (s.answer (.port 0x00 x)) ∧ x.toNat = 16 * s.block.op.toNat

/-- R195: read(STATUS) returns the fields in their places and has no side effect; the values a host can see in a state
that keeps STATUS's invariants are 0, 1, 2 and 0x00000N06 for a code N of 1 to 8. -/
def Obligations.StatusReadReturnsFields : Prop :=
  ∀ s : State, ∃ x : Reg, portRead 0x04 32 s = .next (s.answer (.port 0x04 x)) ∧
    x.getLsbD 0 = s.block.status.busy ∧ x.getLsbD 1 = s.block.status.done ∧ x.getLsbD 2 = s.block.status.err ∧
    x.extractLsb' 8 8 = s.block.status.errcode ∧ x &&& 0xFFFF00F8#32 = 0#32 ∧
    (StatusOk s.block.status →
      x = 0#32 ∨ x = 1#32 ∨ x = 2#32 ∨ ∃ n, 1 ≤ n ∧ n ≤ 8 ∧ x.toNat = n * 0x100 + 6)

/-- R196: a write to STATUS is ignored in every state, and nothing clears DONE, or ERR, but a launch or reset. -/
def Obligations.StatusClearedOnlyByLaunchOrReset : Prop :=
  (∀ (s : State) (v : Reg), portWrite 0x04 32 v s = .next s) ∧
  (∀ s : State, StatusOk s.block.status →
    (s.block.status.done = true → (blockTurn s).block.status.done = true) ∧
    (s.block.status.err = true → s.block.fsm = .idle → (blockTurn s).block.status.err = true) ∧
    (∀ t, hostTurn s = .next t →
      (s.block.status.done = true ∧ t.block.status.done = false) ∨
        (s.block.status.err = true ∧ t.block.status.err = false) →
      ∃ v, v.getLsbD 0 = true ∧ s.block.status.busy = false ∧
        (s.program.head? = some (.wr 0x00 32 v) ∨ s.program.head? = some (.busWr s.cfg.ctrlBase 32 v))))

/-- R197: a write to an ARG or DIM register while idle stores any value in that register and changes nothing else; while
BUSY it is ignored. -/
def Obligations.ArgumentWrite : Prop :=
  ∀ (s : State) (off : Nat) (v : Reg), off ∈ [0x10, 0x14, 0x18, 0x1C, 0x20, 0x24, 0x28, 0x2C, 0x30] →
    (s.block.status.busy = true → portWrite off 32 v s = .next s) ∧
    (s.block.status.busy = false → ∃ b : Block s.cfg, portWrite off 32 v s = .next (s.setBlock b) ∧
      portValue b off = v ∧ (∀ off', off' ≠ off → portValue b off' = portValue s.block off') ∧
      b.op = s.block.op ∧ b.status = s.block.status ∧ b.fsm = s.block.fsm ∧ b.i = s.block.i ∧ b.j = s.block.j ∧
      b.aCur = s.block.aCur ∧ b.aNext = s.block.aNext ∧ b.bCur = s.block.bCur ∧ b.bNext = s.block.bNext ∧
      b.outWord = s.block.outWord)

/-- R198: a read of an ARG or DIM offset returns the stored value in any state, with no side effect. -/
def Obligations.ArgumentRead : Prop :=
  ∀ s : State,
    portRead 0x10 32 s = .next (s.answer (.port 0x10 s.block.arg0Lo)) ∧
    portRead 0x14 32 s = .next (s.answer (.port 0x14 s.block.arg0Hi)) ∧
    portRead 0x18 32 s = .next (s.answer (.port 0x18 s.block.arg1Lo)) ∧
    portRead 0x1C 32 s = .next (s.answer (.port 0x1C s.block.arg1Hi)) ∧
    portRead 0x20 32 s = .next (s.answer (.port 0x20 s.block.arg2Lo)) ∧
    portRead 0x24 32 s = .next (s.answer (.port 0x24 s.block.arg2Hi)) ∧
    portRead 0x28 32 s = .next (s.answer (.port 0x28 s.block.dim0)) ∧
    portRead 0x2C 32 s = .next (s.answer (.port 0x2C s.block.dim1)) ∧
    portRead 0x30 32 s = .next (s.answer (.port 0x30 s.block.dim2))

/-- R199: an unmapped offset (0x08, 0x0C, 0x34 to 0xFC) reads 0 and ignores a write, in every state. -/
def Obligations.UnmappedOffset : Prop :=
  ∀ (s : State) (off : Nat) (v : Reg), off % 4 = 0 → off = 0x08 ∨ off = 0x0C ∨ (0x34 ≤ off ∧ off ≤ 0xFC) →
    portRead off 32 s = .next (s.answer (.port off 0)) ∧ portWrite off 32 v s = .next s

/-- R200: a control-port transaction touches no data memory and makes no block step: no request, no counter or data-path
register changes, and a launch only arms the sequencer. -/
def Obligations.PortTransactionsLeaveMemoryAlone : Prop :=
  ∀ (s t : State) (l : HostLine), (∀ a bytes, l ≠ .memWr a bytes) → (∀ a n, l ≠ .memRd a n) → hostLine l s = .next t →
    t.mem = s.mem ∧ t.trace = s.trace ∧ t.fresh = s.fresh ∧
    ∃ b : Block s.cfg, (∃ ls as tnt, t = { s with block := b, program := ls, answers := as, tainted := tnt }) ∧
      b.i = s.block.i ∧ b.j = s.block.j ∧ b.aCur = s.block.aCur ∧ b.aNext = s.block.aNext ∧ b.bCur = s.block.bCur ∧
      b.bNext = s.block.bNext ∧ b.outWord = s.block.outWord ∧
      (b.fsm = s.block.fsm ∨ b.fsm = .idle ∨ b.fsm = .mulInit ∨ b.fsm = .trnRun)

/-- R201: a transaction that is not 32 bits wide, or at an offset with off[1:0] != 0 or of 0x100 or more, is refused by
name. -/
def Obligations.InadmissibleAccessRefused : Prop :=
  ∀ (s : State) (off bits : Nat) (v : Reg),
    (bits ≠ 32 → portWrite off bits v s = .refused (.portWidth bits) ∧ portRead off bits s = .refused (.portWidth bits)) ∧
    (bits = 32 → off % 4 ≠ 0 →
      portWrite off bits v s = .refused (.portMisaligned off) ∧ portRead off bits s = .refused (.portMisaligned off)) ∧
    (bits = 32 → off % 4 = 0 → 0x100 ≤ off →
      portWrite off bits v s = .refused (.portOffset off) ∧ portRead off bits s = .refused (.portOffset off))

/-- 20_memory.md R59: the host reaches control offset `off` at CTRL_BASE + off (log 22). -/
def Obligations.BusAddressIsBasePlusOffset : Prop :=
  ∀ (s : State) (off bits : Nat) (v : Reg), off < 0x100 →
    busWrite (s.cfg.ctrlBase + off) bits v s = portWrite off bits v s ∧
    busRead (s.cfg.ctrlBase + off) bits s = portRead off bits s

/-! ### MULTIPLY's micro-steps (R154 to R157) -/

/-- R154: MUL_INIT. -/
def Obligations.MulInitStep : Prop :=
  ∀ s : State, s.block.fsm = .mulInit → admits s.cfg (.read s.block.args.a0) = true →
    blockTurn s =
      (s.setBlock { s.block with aCur := memWord s.cfg s.mem s.block.args.a0, i := 0, fsm := .mulRow }).record
        (.read s.block.args.a0)

/-- R155: MUL_ROW, with and without a next row to prefetch, and MUL_BLOAD. -/
def Obligations.MulRowAndBloadSteps : Prop :=
  ∀ s : State,
    (s.block.fsm = .mulRow → s.block.i.toNat + 1 < s.block.args.d0 →
      admits s.cfg (.read (s.block.args.a0 + (s.block.i.toNat + 1) * s.cfg.wordBytes)) = true →
      blockTurn s =
        (s.setBlock
          { s.block with
            aNext := memWord s.cfg s.mem (s.block.args.a0 + (s.block.i.toNat + 1) * s.cfg.wordBytes)
            outWord := 0
            fsm := .mulBload }).record (.read (s.block.args.a0 + (s.block.i.toNat + 1) * s.cfg.wordBytes))) ∧
    (s.block.fsm = .mulRow → s.block.args.d0 ≤ s.block.i.toNat + 1 →
      blockTurn s = s.setBlock { s.block with outWord := 0, fsm := .mulBload }) ∧
    (s.block.fsm = .mulBload → admits s.cfg (.read s.block.args.a1) = true →
      blockTurn s =
        (s.setBlock { s.block with bCur := memWord s.cfg s.mem s.block.args.a1, j := 0, fsm := .mulCol }).record
          (.read s.block.args.a1))

/-- R156: MUL_COL, with and without a next column to prefetch; the multiply-reduce uses b_cur as it was before the
step's swap, and with m = L the prefetch address is in2 + (j+1)*WB. -/
def Obligations.MulColStep : Prop :=
  ∀ s : State, s.block.fsm = .mulCol →
    (∀ w : BitVec s.cfg.dataWidth,
      w = laneSet s.block.outWord (s.block.j.toNat % s.cfg.lanes) (dot s.cfg s.block.aCur s.block.bCur) →
      (s.block.j.toNat + 1 < s.block.args.d2 → ∀ a,
        a = s.block.args.a1 + (s.block.j.toNat + 1) * (s.block.args.d1 / s.cfg.lanes) * s.cfg.wordBytes →
        (admits s.cfg (.read a) = true →
          blockTurn s =
            (s.setBlock
              { s.block with
                bNext := memWord s.cfg s.mem a
                bCur := memWord s.cfg s.mem a
                outWord := w
                j := s.block.j + 1 }).record (.read a)) ∧
        (s.block.args.d1 = s.cfg.lanes → 0 < s.cfg.lanes →
          a = s.block.args.a1 + (s.block.j.toNat + 1) * s.cfg.wordBytes)) ∧
      (s.block.args.d2 ≤ s.block.j.toNat + 1 →
        blockTurn s = s.setBlock { s.block with outWord := w, fsm := .mulFlush }))

/-- R157: MUL_FLUSH: the single write of row i, then the swap to the next row or the completion. -/
def Obligations.MulFlushStep : Prop :=
  ∀ s : State, s.block.fsm = .mulFlush → s.tainted = false →
    ∀ a, a = s.block.args.a2 + s.block.i.toNat * s.cfg.wordBytes → admits s.cfg (.write a) = true →
    (s.block.i.toNat + 1 < s.block.args.d0 →
      blockTurn s =
        ((s.setMem (setMemWord s.cfg s.mem a s.block.outWord)).setBlock
          { s.block with aCur := s.block.aNext, i := s.block.i + 1, fsm := .mulRow }).record (.write a)) ∧
    (s.block.args.d0 ≤ s.block.i.toNat + 1 →
      blockTurn s =
        ((s.setMem (setMemWord s.cfg s.mem a s.block.outWord)).setBlock
          { s.block with
            status := { busy := false, done := true, err := false, errcode := 0 }
            fsm := .idle }).record (.write a))

/-- R232: the block's last step of a command, MUL_FLUSH of row n-1 or TRN_RUN, leaves fsm IDLE, BUSY = 0, DONE = 1,
ERR = 0 and ERRCODE = 0, in the step that performs the command's last write. -/
def Obligations.NormalCompletion : Prop :=
  ∀ (s : State) (r : Request), nextRequest s.block = some r → admits s.cfg r = true →
    (s.block.fsm = .mulFlush ∧ s.block.args.d0 ≤ s.block.i.toNat + 1) ∨ s.block.fsm = .trnRun →
    (blockTurn s).block.fsm = .idle ∧ (blockTurn s).block.status.busy = false ∧
    (blockTurn s).block.status.done = true ∧ (blockTurn s).block.status.err = false ∧
    (blockTurn s).block.status.errcode = 0 ∧ (blockTurn s).trace = s.trace ++ [r]

/-- The frame of a block turn: every control register but STATUS, the host's side and the schedule are unchanged, and
every byte of memory is unchanged but the word MUL_FLUSH stores at out + i*WB and the NW words TRN_RUN stores at dst.
TRN_RUN writes no counter and no data-path register (41_transpose.md R135). -/
def Obligations.BlockTurnFrame : Prop :=
  ∀ s : State, s.mem.wf = true →
    (blockTurn s).program = s.program ∧ (blockTurn s).schedule = s.schedule ∧ (blockTurn s).answers = s.answers ∧
    (blockTurn s).tainted = s.tainted ∧
    (∃ b : Block s.cfg, (∃ m tr f, blockTurn s = { s with block := b, mem := m, trace := tr, fresh := f }) ∧
      b.op = s.block.op ∧ (∀ off, off ≠ 0x04 → portValue b off = portValue s.block off) ∧
      (s.block.fsm = .trnRun →
        b.i = s.block.i ∧ b.j = s.block.j ∧ b.aCur = s.block.aCur ∧ b.aNext = s.block.aNext ∧ b.bCur = s.block.bCur ∧
        b.bNext = s.block.bNext ∧ b.outWord = s.block.outWord)) ∧
    (∀ x,
      (s.block.fsm = .mulFlush → x < cWordAddr s.cfg s.block.args s.block.i.toNat ∨
        cWordAddr s.cfg s.block.args s.block.i.toNat + s.cfg.wordBytes ≤ x) →
      (s.block.fsm = .trnRun → x < s.block.args.a2 ∨
        s.block.args.a2 + trnWords s.cfg s.block.args * s.cfg.wordBytes ≤ x) →
      (blockTurn s).mem.readByte x = s.mem.readByte x)

/-- R236: while the platform refuses the request the block is about to make, the block stays BUSY with fsm unchanged
whatever turn it or the host takes; only reset leaves this state. -/
def Obligations.StuckUntilReset : Prop :=
  ∀ s : State, stuck s = true →
    blockTurn s = s ∧
    (∀ t, hostTurn s = .next t → stuck t = true ∧ t.block.fsm = s.block.fsm) ∧
    (resetTurn s).block.status.busy = false ∧ (resetTurn s).block.fsm = .idle

/-! ### What a whole command does -/

/-- R153: an undisturbed MULTIPLY that passes its checks and whose requests are admitted completes with the n words of
encode(C) at out, C the reference product of A = decode(in1) and T = decode(in2) as memory was at launch, so
C = A*B mod 2^W where T = B^T; no other byte changes. -/
def Obligations.MultiplyComputesProduct : Prop :=
  ∀ s : State, s.cfg.wf = true → s.mem.wf = true → s.block.status.busy = false → s.schedule = [] →
    entryCheck s.cfg 0#4 s.block.args = .none →
    (commandRequests s.cfg .multiply s.block.args).all (admits s.cfg) = true →
    ∃ (t : State) (a x : Matrix s.cfg.elemWidth) (ws : List (BitVec s.cfg.dataWidth)),
      runCommand .multiply s = .next t ∧
      decodeStream s.cfg (memWords s.cfg s.mem s.block.args.a0 s.block.args.d0) s.block.args.d0 s.block.args.d1 = .ok a ∧
      decodeStream s.cfg (memWords s.cfg s.mem s.block.args.a1 s.block.args.d2) s.block.args.d2 s.block.args.d1 = .ok x ∧
      encodeMatrix s.cfg (referenceProduct a x) = .ok ws ∧
      memWords s.cfg t.mem s.block.args.a2 s.block.args.d0 = ws ∧
      (∀ b : Matrix s.cfg.elemWidth, b.wf = true → b.rows = s.block.args.d1 → b.cols = s.block.args.d2 →
        x = b.transposed → referenceProduct a x = matrixProduct a b) ∧
      (∀ y, inRegion (outputRegion s.cfg 0#4 s.block.args) y = false → t.mem.readByte y = s.mem.readByte y) ∧
      t.block.status = { busy := false, done := true, err := false, errcode := 0 } ∧ t.block.fsm = .idle

/-- 42_multiply.md section 3: one MULTIPLY makes exactly the request sequence listed there, in 1 + n*(p+3) block
steps. -/
def Obligations.MultiplyRequestSequence : Prop :=
  ∀ s : State, s.cfg.wf = true → s.block.status.busy = false → s.schedule = [] →
    entryCheck s.cfg 0#4 s.block.args = .none →
    (commandRequests s.cfg .multiply s.block.args).all (admits s.cfg) = true →
    ∃ s1 t : State, exec .multiply s = .next s1 ∧
      Sys2Proof.core.run (1 + s.block.args.d0 * (s.block.args.d2 + 3)) s1 = .next t ∧
      t.trace = s.trace ++ mulRequests s.cfg s.block.args ∧ t.block.fsm = .idle ∧
      (∀ k, k < 1 + s.block.args.d0 * (s.block.args.d2 + 3) →
        ∃ u : State, Sys2Proof.core.run k s1 = .next u ∧ u.block.status.busy = true)

/-- R132: an undisturbed TRANSPOSE completes with encode(B^T) at dst, B = decode of the source words as memory was at
launch; destination element j*rows + k equals source element k*cols + j; no other byte changes. -/
def Obligations.TransposeComputesTranspose : Prop :=
  ∀ s : State, s.cfg.wf = true → s.mem.wf = true → s.block.status.busy = false → s.schedule = [] →
    entryCheck s.cfg 1#4 s.block.args = .none →
    (commandRequests s.cfg .transpose s.block.args).all (admits s.cfg) = true →
    ∃ (t : State) (b : Matrix s.cfg.elemWidth) (ws : List (BitVec s.cfg.dataWidth)),
      runCommand .transpose s = .next t ∧
      decodeStream s.cfg (memWords s.cfg s.mem s.block.args.a0 (trnWords s.cfg s.block.args)) s.block.args.d0
        s.block.args.d1 = .ok b ∧
      encodeMatrix s.cfg b.transposed = .ok ws ∧
      memWords s.cfg t.mem s.block.args.a2 (trnWords s.cfg s.block.args) = ws ∧
      (∀ j k, j < s.block.args.d1 → k < s.block.args.d0 →
        memElem s.cfg t.mem s.block.args.a2 (j * s.block.args.d0 + k) =
          memElem s.cfg s.mem s.block.args.a0 (k * s.block.args.d1 + j)) ∧
      (∀ y, inRegion (outputRegion s.cfg 1#4 s.block.args) y = false → t.mem.readByte y = s.mem.readByte y) ∧
      t.block.status = { busy := false, done := true, err := false, errcode := 0 } ∧ t.block.fsm = .idle

/-- 70_reset_and_hazards.md section 2: TRANSPOSE of B followed by MULTIPLY on its destination leaves encode(A*B) at out,
when A's region is apart from TRANSPOSE's destination. -/
def Obligations.TransposeThenMultiplyIsProduct : Prop :=
  ∀ (s t u : State) (b2 : Block s.cfg) (a b : Matrix s.cfg.elemWidth),
    s.cfg.wf = true → s.mem.wf = true → s.block.status.busy = false → s.schedule = [] →
    entryCheck s.cfg 1#4 s.block.args = .none →
    (commandRequests s.cfg .transpose s.block.args).all (admits s.cfg) = true →
    runCommand .transpose s = .next t →
    b2.status.busy = false → entryCheck s.cfg 0#4 b2.args = .none →
    (commandRequests s.cfg .multiply b2.args).all (admits s.cfg) = true →
    s.block.args.d0 = b2.args.d1 → s.block.args.d1 = b2.args.d2 → b2.args.a1 = s.block.args.a2 →
    overlaps (wordRegion s.cfg b2.args.a0 b2.args.d0) (outputRegion s.cfg 1#4 s.block.args) = false →
    decodeStream s.cfg (memWords s.cfg s.mem b2.args.a0 b2.args.d0) b2.args.d0 b2.args.d1 = .ok a →
    decodeStream s.cfg (memWords s.cfg s.mem s.block.args.a0 (trnWords s.cfg s.block.args)) s.block.args.d0
      s.block.args.d1 = .ok b →
    runCommand .multiply { s with block := b2, mem := t.mem } = .next u →
    encodeMatrix s.cfg (matrixProduct a b) = .ok (memWords s.cfg u.mem b2.args.a2 b2.args.d0)

/-- R40: no state carries from one command to the next: two idle machines whose control arguments agree and whose
memories agree on the command's input regions write the same output bytes and the same STATUS, whatever the data-path
registers, counters, OP and earlier STATUS hold. -/
def Obligations.HiddenStateDoesNotLeak : Prop :=
  ∀ (s t t' : State) (b' : Block s.cfg) (m' : Mem) (i : Instr), i.wf = true → s.cfg.wf = true →
    s.mem.wf = true → m'.wf = true → s.schedule = [] → s.block.status.busy = false → b'.status.busy = false →
    b'.args = s.block.args → entryCheck s.cfg i.op s.block.args = .none →
    (commandRequests s.cfg i s.block.args).all (admits s.cfg) = true →
    (∀ r ∈ inputRegions s.cfg i.op s.block.args, ∀ y, inRegion r y = true → m'.readByte y = s.mem.readByte y) →
    runCommand i s = .next t → runCommand i { s with block := b', mem := m' } = .next t' →
    (∀ y, inRegion (outputRegion s.cfg i.op s.block.args) y = true → t'.mem.readByte y = t.mem.readByte y) ∧
    t'.block.status = t.block.status ∧ t'.trace = t.trace

/-! ### Invariants of every step -/

/-- Every configuration's machine right after reset meets the run invariant and lists no memory. -/
def Obligations.RunInvariantAtReset : Prop :=
  ∀ c : Config, c.wf = true → RunOk (State.resetOf c)

/-- Every step keeps the run invariant: STATUS's invariants, fsm = IDLE exactly when BUSY = 0, a running command's
checks and counters, the double-buffer invariants of 42_multiply.md section 5 and the rows already written. -/
def Obligations.RunInvariantKept : Prop :=
  ∀ s t : State, RunOk s → step s = .next t → RunOk t

/-- Every step keeps memory in its canonical form, and State.reset has it. -/
def Obligations.MemoryStaysCanonical : Prop :=
  State.reset.mem.wf = true ∧ ∀ s t : State, s.mem.wf = true → step s = .next t → t.mem.wf = true

/-- Every step keeps STATUS's invariants of 10_state.md R23 and the known error codes of 60_exceptions.md R221. -/
def Obligations.StatusInvariantKept : Prop :=
  ∀ s t : State, StatusOk s.block.status → step s = .next t → StatusOk t.block.status

/-- Every step keeps fsm = IDLE exactly when STATUS.BUSY = 0 (10_state.md R36), and no step changes the build's
parameters. -/
def Obligations.SequencerMatchesBusy : Prop :=
  ∀ s t : State, sequencerOk s.block → step s = .next t → sequencerOk t.block ∧ t.cfg = s.cfg

/-- 20_memory.md R55: every request the block makes is for WB-aligned words inside the address space. -/
def Obligations.RequestsAlignedAndInRange : Prop :=
  ∀ s t : State, RunOk s → (∀ r ∈ s.trace, requestInRange s.cfg r) → step s = .next t →
    ∀ r ∈ t.trace, requestInRange s.cfg r

/-- 60_exceptions.md R235: no condition inside the block raises an error: a block turn never sets ERR. -/
def Obligations.NoErrorAfterLaunch : Prop :=
  ∀ s : State, (s.block.status.err = false → (blockTurn s).block.status.err = false) ∧
    (StatusOk s.block.status → s.block.status.busy = true → (blockTurn s).block.status.err = false ∧
      (blockTurn s).block.status.errcode = 0)

/-- The operands of a running command cannot change: while BUSY no turn but reset changes OP, an ARG or a DIM
register. -/
def Obligations.OperandsFrozenWhileBusy : Prop :=
  ∀ s : State, s.block.status.busy = true →
    (∀ off, off ≠ 0x04 → portValue (blockTurn s).block off = portValue s.block off) ∧
    (∀ t, hostTurn s = .next t → ∃ m ls as tnt f,
      t = { s with mem := m, program := ls, answers := as, tainted := tnt, fresh := f })

/-! ### Reset (10_state.md R41, 70_reset_and_hazards.md R260 to R262) -/

/-- What reset leaves where 10_state.md R41 gives a value: every control register 0, fsm IDLE; and the default
configuration of 00_scope.md R6, R7 and R9. -/
def Obligations.ResetValues : Prop :=
  (∀ off, portValue State.reset.block off = 0) ∧ State.reset.block.fsm = .idle ∧
  State.reset.block.status = { busy := false, done := false, err := false, errcode := 0 } ∧
  State.reset.cfg.elemWidth = 32 ∧ State.reset.cfg.dataWidth = 512 ∧ State.reset.cfg.lanes = 16 ∧
  State.reset.cfg.wordBytes = 64 ∧ State.reset.cfg.elemBytes = 4 ∧ State.reset.cfg.addrWidth = 64

/-- R261: reset while BUSY aborts the command: no further request, STATUS reads 0, every byte of the output region is
any value, every other byte is unchanged; while idle no byte changes. -/
def Obligations.ResetAbortsCommand : Prop :=
  ∀ s : State, s.mem.wf = true →
    (∀ off, portValue (resetTurn s).block off = 0) ∧ (resetTurn s).block.fsm = .idle ∧ (resetTurn s).trace = s.trace ∧
    (s.block.status.busy = true → ∀ y,
      (inRegion (runningOutput s) y = true →
        (resetTurn s).mem.readByte y = Config.freeValue 8 (s.fresh + (y - (runningOutput s).base))) ∧
      (inRegion (runningOutput s) y = false → (resetTurn s).mem.readByte y = s.mem.readByte y)) ∧
    (s.block.status.busy = false → (resetTurn s).mem = s.mem)

/-- R262: an idle block waits: its turn changes nothing, and the only turn that takes the sequencer out of IDLE is a
host's write of START = 1 to CTRL. -/
def Obligations.IdleBlockWaitsForStart : Prop :=
  ∀ s : State, s.block.fsm = .idle →
    blockTurn s = s ∧ (resetTurn s).block.fsm = .idle ∧
    (∀ t, hostTurn s = .next t → t.block.fsm ≠ .idle →
      ∃ v i, decode v = .command i ∧
        (s.program.head? = some (.wr 0x00 32 v) ∨ s.program.head? = some (.busWr s.cfg.ctrlBase 32 v)))

/-! ### The host and data memory (20_memory.md R63, R64, 70_reset_and_hazards.md R267, R268) -/

/-- 70_reset_and_hazards.md R267: while BUSY a host read of an output byte is any value, and a host write to an input
region makes every output word the block writes afterwards any value. The model's choices: a host access answers at
every address below 2^ADDR_WIDTH (log 17); the bytes of a read outside the output region are what memory holds (log 15),
those of an earlier command's output too, with or without a STATUS read of DONE = 1 (log 26);
such a write sets `tainted`, and a host write that meets the output region makes that whole region any value, leaves
every other byte it does not write alone, and sets `tainted` (log 14). -/
def Obligations.BrokenDutyGivesAnyValue : Prop :=
  ∀ s : State, s.block.status.busy = true →
    (∀ a n, a + n ≤ 2 ^ s.cfg.addrWidth → ∃ (t : State) (bs : List Byte),
      hostRead a n s = .next t ∧ t.answers = s.answers ++ [.mem a bs] ∧ bs.length = n ∧
      ∀ k < n, bs.getD k 0 = if inRegion (runningOutput s) (a + k) then Config.freeValue 8 (s.fresh + k)
        else s.mem.readByte (a + k)) ∧
    (∀ a bytes r, a + bytes.length ≤ 2 ^ s.cfg.addrWidth → r ∈ runningInputs s →
      overlaps { base := a, len := bytes.length } r = true → ∃ t, hostWrite a bytes s = .next t ∧ t.tainted = true) ∧
    (∀ a bytes, s.mem.wf = true → a + bytes.length ≤ 2 ^ s.cfg.addrWidth →
      overlaps { base := a, len := bytes.length } (runningOutput s) = true →
      ∃ m f, hostWrite a bytes s = .next { s with mem := m, tainted := true, fresh := f } ∧
        (∀ y, inRegion (runningOutput s) y = true →
          m.readByte y = Config.freeValue 8 (s.fresh + (y - (runningOutput s).base))) ∧
        (∀ k < bytes.length, inRegion (runningOutput s) (a + k) = false → m.readByte (a + k) = bytes.getD k 0) ∧
        (∀ y, inRegion (runningOutput s) y = false → y < a ∨ a + bytes.length ≤ y →
          m.readByte y = s.mem.readByte y)) ∧
    (s.tainted = true → s.block.fsm = .mulFlush →
      admits s.cfg (.write (cWordAddr s.cfg s.block.args s.block.i.toNat)) = true →
      (blockTurn s).tainted = true ∧
      (blockTurn s).mem = setMemWord s.cfg s.mem (cWordAddr s.cfg s.block.args s.block.i.toNat)
        (Config.freeValue s.cfg.dataWidth s.fresh)) ∧
    (s.tainted = true → s.block.fsm = .trnRun → admits s.cfg (trnRequest s.block) = true →
      (blockTurn s).mem = setMemWords s.cfg s.mem s.block.args.a2
        ((List.range (trnWords s.cfg s.block.args)).map fun k => Config.freeValue s.cfg.dataWidth (s.fresh + k)))

/-- 20_memory.md R63 and R64: while a command runs, a host line that keeps the duties of R268 changes no byte of the
command's regions and taints nothing. -/
def Obligations.DutifulHostKeepsRegions : Prop :=
  ∀ (s t : State) (l : HostLine), s.mem.wf = true → s.block.status.busy = true → keepsDuty s l = true →
    hostLine l s = .next t →
    t.tainted = s.tainted ∧
    ∀ r ∈ runningOutput s :: runningInputs s, ∀ y, inRegion r y = true → t.mem.readByte y = s.mem.readByte y

/-- 20_memory.md R50 and R58: while the block is idle the host reads back what it wrote, every other byte is unchanged,
and neither access changes the block's registers, counters and data path, its requests, the host's lines or the
schedule (10_state.md R36, R37): a write changes memory only, a read only the answers and the count of free values. The
model's choices: an access below 2^ADDR_WIDTH answers, and one past it faults (log 17); a read answers what memory holds
whether or not the host has read STATUS with DONE = 1 since the last completion (log 26). -/
def Obligations.HostMemoryReadsBack : Prop :=
  ∀ (s : State) (a : Nat) (bytes : List Byte), s.mem.wf = true → s.block.status.busy = false →
    (a + bytes.length ≤ 2 ^ s.cfg.addrWidth → ∃ m f, hostWrite a bytes s = .next { s with mem := m } ∧
      hostRead a bytes.length { s with mem := m } =
        .next { s with mem := m, answers := s.answers ++ [.mem a bytes], fresh := f } ∧
      ∀ y, y < a ∨ a + bytes.length ≤ y → m.readByte y = s.mem.readByte y) ∧
    (a + bytes.length ≤ 2 ^ s.cfg.addrWidth → ∃ f, hostRead a bytes.length s =
      .next { s with answers := s.answers ++ [.mem a (s.mem.readBytes a bytes.length)], fresh := f }) ∧
    (2 ^ s.cfg.addrWidth < a + bytes.length →
      hostWrite a bytes s = .fault (.hostAddressOutsideMemory a) ∧
      hostRead a bytes.length s = .fault (.hostAddressOutsideMemory a))

/-- R60: two regions overlap, by the rule's formula, exactly when they share a byte. -/
def Obligations.OverlapMeansSharedByte : Prop :=
  ∀ r q : Region,
    (overlaps r q = true ↔ 0 < r.len ∧ 0 < q.len ∧ r.base < q.base + q.len ∧ q.base < r.base + r.len) ∧
    (overlaps r q = true ↔ sharesByte r q)

/-- R52: little-endian, WB bytes: byte a+b holds bits [8b+7:8b] of the word written at a, MemRead gives the sum of
mem[a+b] * 2^(8b), a read gives back what was written, and no other byte changes. -/
def Obligations.PackedWordLittleEndian : Prop :=
  ∀ (c : Config) (m : Mem) (a : Nat) (v : BitVec c.dataWidth), c.wf = true → m.wf = true →
    (memWord c m a).toNat = ((List.range c.wordBytes).map fun b => (m.readByte (a + b)).toNat * 2 ^ (8 * b)).sum ∧
    (∀ b < c.wordBytes, (setMemWord c m a v).readByte (a + b) = v.extractLsb' (8 * b) 8) ∧
    (∀ y, y < a ∨ a + c.wordBytes ≤ y → (setMemWord c m a v).readByte y = m.readByte y) ∧
    memWord c (setMemWord c m a v) a = v

/-! ### The codec (40_codec.md) and the multiply-reduce (42_multiply.md) -/

/-- R110: lane k of a word is its bits [W*k + W - 1 : W*k]. -/
def Obligations.LaneGetBits : Prop :=
  (∀ (c : Config) (v : BitVec c.dataWidth) (k x : Nat), c.wf = true → k < c.lanes → x < c.elemWidth →
    (laneGet c.elemWidth v k).getLsbD x = v.getLsbD (c.elemWidth * k + x)) ∧
  (List.range 4).map (laneGet 8 0xDEADBEEF#32) = [0xEF#8, 0xBE#8, 0xAD#8, 0xDE#8]

/-- R111: lane_set replaces bits [W*k + W - 1 : W*k] and leaves every other bit and lane as it was. -/
def Obligations.LaneSetBits : Prop :=
  (∀ (c : Config) (v : BitVec c.dataWidth) (k : Nat) (e : BitVec c.elemWidth), c.wf = true → k < c.lanes →
    (∀ x < c.elemWidth, (laneSet v k e).getLsbD (c.elemWidth * k + x) = e.getLsbD x) ∧
    (∀ x, x < c.elemWidth * k ∨ c.elemWidth * k + c.elemWidth ≤ x → (laneSet v k e).getLsbD x = v.getLsbD x) ∧
    (∀ k' < c.lanes, k' ≠ k → laneGet c.elemWidth (laneSet v k e) k' = laneGet c.elemWidth v k')) ∧
  laneSet 0xDEADBEEF#32 2 0x55#8 = 0xDE55BEEF#32 ∧ laneSet 0x00000000#32 3 0xFF#8 = 0xFF000000#32

/-- 40_codec.md section 2: unpack(pack(e)) = e for every list of L elements, and pack(unpack(v)) = v for every word. -/
def Obligations.PackUnpackRoundTrip : Prop :=
  ∀ c : Config, c.wf = true →
    (∀ es : List (BitVec c.elemWidth), es.length = c.lanes → unpack c (pack c es) = es) ∧
    (∀ v : BitVec c.dataWidth, pack c (unpack c v) = v)

/-- 40_codec.md section 3: decode(encode(X)) = X and encode(decode(S)) = S for every shape in contract; every other
shape is refused by name, and so is a lane index of L or more. -/
def Obligations.MatrixCodecRoundTrip : Prop :=
  ∀ c : Config, c.wf = true →
    (∀ x : Matrix c.elemWidth, x.wf = true → x.rows * x.cols % c.lanes = 0 →
      ∃ ws, encodeMatrix c x = .ok ws ∧ decodeStream c ws x.rows x.cols = .ok x) ∧
    (∀ (ws : List (BitVec c.dataWidth)) (rows cols : Nat), rows * cols % c.lanes = 0 →
      ws.length = rows * cols / c.lanes → ∃ x, decodeStream c ws rows cols = .ok x ∧ encodeMatrix c x = .ok ws) ∧
    (∀ x : Matrix c.elemWidth, x.rows * x.cols % c.lanes ≠ 0 → encodeMatrix c x = .error .codecShape) ∧
    (∀ (ws : List (BitVec c.dataWidth)) (rows cols : Nat),
      ¬(rows * cols % c.lanes = 0 ∧ ws.length = rows * cols / c.lanes) →
      decodeStream c ws rows cols = .error .codecShape) ∧
    (∀ (v : BitVec c.dataWidth) (k : Nat) (e : BitVec c.elemWidth), c.lanes ≤ k →
      laneGetChecked c v k = .error (.laneIndex k) ∧ laneSetChecked c v k e = .error (.laneIndex k))

/-- 20_memory.md section 2 and 40_codec.md section 3: element e of a packed stream at s is the little-endian W-bit
integer at bytes s + e*EB to s + e*EB + EB - 1. -/
def Obligations.StreamElementIsRowMajorBytes : Prop :=
  ∀ (c : Config) (m : Mem) (a e : Nat), c.wf = true →
    (memElem c m a e).toNat = leNat (m.readBytes (a + e * c.elemBytes) c.elemBytes)

/-- R159: dot is the exact sum of the exact products of the lanes, truncated to W bits. -/
def Obligations.DotTruncatesExactSum : Prop :=
  (∀ (c : Config) (a b : BitVec c.dataWidth), c.wf = true →
    (dot c a b).toNat =
      ((List.range c.lanes).map fun k =>
        (a.toNat / 2 ^ (c.elemWidth * k) % 2 ^ c.elemWidth) * (b.toNat / 2 ^ (c.elemWidth * k) % 2 ^ c.elemWidth)).sum
        % 2 ^ c.elemWidth) ∧
  dot Config.mini 0x04030201#32 0x08070605#32 = 0x46#8

/-- 42_multiply.md sections 4 and 6: products truncated to W bits before they are summed give the same dot, all-ones
operands give L mod 2^W, and a zero operand gives 0. -/
def Obligations.DotIsModularArithmetic : Prop :=
  ∀ (c : Config) (a b : BitVec c.dataWidth), c.wf = true →
    dot c a b =
      (List.range c.lanes).foldl (fun sum k => sum + laneGet c.elemWidth a k * laneGet c.elemWidth b k) 0 ∧
    dot c (BitVec.allOnes c.dataWidth) (BitVec.allOnes c.dataWidth) = BitVec.ofNat c.elemWidth c.lanes ∧
    dot c 0 b = 0 ∧ dot c a b = dot c b a

/-! ### Host programs (30_encoding.md R92, R93) -/

/-- 30_encoding.md section 5: `setarg N, X` leaves ARGN = X, and `wait` is done in the first read that finds BUSY = 0
and DONE = 1 and is repeated otherwise. -/
def Obligations.SetargAndWaitLines : Prop :=
  (∀ (s : State) (x : BitVec 64) (ls : List HostLine), s.schedule = [] → s.block.status.busy = false →
    (s.program = setargLines 0 x ++ ls → ∃ t : State, Sys2Proof.core.run 2 s = .next t ∧ t.block.args.a0 = x.toNat ∧
      t.block.args.a1 = s.block.args.a1 ∧ t.block.args.a2 = s.block.args.a2 ∧ t.program = ls) ∧
    (s.program = setargLines 1 x ++ ls → ∃ t : State, Sys2Proof.core.run 2 s = .next t ∧ t.block.args.a1 = x.toNat ∧
      t.block.args.a0 = s.block.args.a0 ∧ t.block.args.a2 = s.block.args.a2 ∧ t.program = ls) ∧
    (s.program = setargLines 2 x ++ ls → ∃ t : State, Sys2Proof.core.run 2 s = .next t ∧ t.block.args.a2 = x.toNat ∧
      t.block.args.a0 = s.block.args.a0 ∧ t.block.args.a1 = s.block.args.a1 ∧ t.program = ls)) ∧
  (∀ (s : State) (ls : List HostLine), s.program = waitLines ++ ls →
    hostTurn s = .next
      (((s.setProgram (if s.block.status.busy = false ∧ s.block.status.done = true then ls else s.program))).answer
        (.port 0x04 s.block.status.word)))
end

