-- ==== Sys2Proof/Laws/Config.lean ====
section
/-!
SUPPORT. What a well-formed configuration gives (00_scope.md R6 to R9): the widths divide each other.
-/
namespace Sys2Proof

theorem isPow2_pos {v : Nat} (h : isPow2 v = true) : 0 < v := by
  simp only [isPow2, Bool.and_eq_true, bne_iff_ne, ne_eq] at h
  omega

section
variable {c : Config}

theorem Config.wf_parts (h : c.wf = true) :
    c.elemWidthOk = true ∧ c.dataWidthOk = true ∧ c.lanesOk = true ∧ c.addrWidthOk = true := by
  simp only [Config.wf, Bool.and_eq_true] at h
  exact ⟨h.1.1.1, h.1.1.2, h.1.2, h.2⟩

theorem Config.elemWidth_pos (h : c.wf = true) : 0 < c.elemWidth := by
  have h1 := (Config.wf_parts h).1
  simp only [Config.elemWidthOk, Bool.and_eq_true, bne_iff_ne, ne_eq] at h1
  omega

/-- W = 8 * EB. -/
theorem Config.elemWidth_eq (h : c.wf = true) : c.elemWidth = 8 * c.elemBytes := by
  have h1 := (Config.wf_parts h).1
  simp only [Config.elemWidthOk, Bool.and_eq_true, beq_iff_eq] at h1
  simp only [Config.elemBytes]
  omega

theorem Config.lanes_pos (h : c.wf = true) : 0 < c.lanes := isPow2_pos (Config.wf_parts h).2.2.1

/-- DATAWIDTH = W * L: the lanes partition the word. -/
theorem Config.dataWidth_eq (h : c.wf = true) : c.dataWidth = c.elemWidth * c.lanes := by
  have h1 := (Config.wf_parts h).2.1
  simp only [Config.dataWidthOk, beq_iff_eq] at h1
  rw [Config.lanes, Nat.mul_div_cancel' (Nat.dvd_of_mod_eq_zero h1)]

/-- DATAWIDTH = 8 * WB: a packed word is a whole number of bytes. -/
theorem Config.dataWidth_bytes (h : c.wf = true) : c.dataWidth = 8 * c.wordBytes := by
  have hd : 8 ∣ c.dataWidth := by
    rw [Config.dataWidth_eq h, Config.elemWidth_eq h, Nat.mul_assoc]
    exact Nat.dvd_mul_right 8 _
  rw [Config.wordBytes, Nat.mul_div_cancel' hd]

/-- WB = L * EB. -/
theorem Config.wordBytes_eq (h : c.wf = true) : c.wordBytes = c.lanes * c.elemBytes := by
  have h1 := Config.dataWidth_bytes h
  have h2 := Config.dataWidth_eq h
  rw [Config.elemWidth_eq h, Nat.mul_assoc, Nat.mul_comm c.elemBytes] at h2
  omega

theorem Config.elemBytes_pos (h : c.wf = true) : 0 < c.elemBytes := by
  have h1 := Config.elemWidth_pos h
  have h2 := Config.elemWidth_eq h
  omega

theorem Config.wordBytes_pos (h : c.wf = true) : 0 < c.wordBytes := by
  rw [Config.wordBytes_eq h]
  exact Nat.mul_pos (Config.lanes_pos h) (Config.elemBytes_pos h)

/-- Every lane lies inside the word. -/
theorem Config.lane_inside (h : c.wf = true) {k : Nat} (hk : k < c.lanes) :
    c.elemWidth * k + c.elemWidth ≤ c.dataWidth := by
  rw [Config.dataWidth_eq h, ← Nat.mul_succ]
  exact Nat.mul_le_mul_left _ hk

end

end Sys2Proof
end

