-- ==== Sys2Proof/Laws/Codec.lean ====
section
/-!
SUPPORT. Lanes (40_codec.md R110, R111) and packed integers (R113), bit by bit.
-/
namespace Sys2Proof.Machine

section
variable {dw w : Nat}

/-- Bit x of lane k is bit W*k + x of the word. -/
theorem laneGet_bit (v : BitVec dw) (k x : Nat) (hx : x < w) : (laneGet w v k).getLsbD x = v.getLsbD (w * k + x) := by
  rw [laneGet, BitVec.getLsbD_extractLsb']
  simp [hx]

/-- Bit x of a word after lane k is set: the lane's own bits come from the element, the others stay. -/
theorem laneSet_bit (v : BitVec dw) (k : Nat) (e : BitVec w) (x : Nat) (hx : x < dw) :
    (laneSet v k e).getLsbD x =
      if w * k ≤ x ∧ x < w * k + w then e.getLsbD (x - w * k) else v.getLsbD x := by
  simp only [laneSet, BitVec.getLsbD_or, BitVec.getLsbD_and, BitVec.getLsbD_not, BitVec.getLsbD_shiftLeft,
    BitVec.getLsbD_setWidth, BitVec.getLsbD_allOnes]
  by_cases h1 : x < w * k
  · simp [h1, hx, show ¬w * k ≤ x by omega]
  · by_cases h2 : x < w * k + w
    · simp [h1, h2, hx, show w * k ≤ x by omega, show x - w * k < w by omega, show x - w * k < dw by omega]
    · have h3 : e.getLsbD (x - w * k) = false := BitVec.getLsbD_of_ge _ _ (by omega)
      simp [h1, h2, hx, h3, show ¬x - w * k < w by omega]

/-- The lane just set reads back. -/
theorem laneGet_laneSet_same (v : BitVec dw) (k : Nat) (e : BitVec w) (hk : w * k + w ≤ dw) :
    laneGet w (laneSet v k e) k = e := by
  apply BitVec.eq_of_getLsbD_eq
  intro x hx
  rw [laneGet_bit _ _ _ hx, laneSet_bit _ _ _ _ (by omega), if_pos (by omega), Nat.add_sub_cancel_left]

/-- The other lanes are unchanged. -/
theorem laneGet_laneSet_other (v : BitVec dw) {k k' : Nat} (e : BitVec w) (hk : w * k' + w ≤ dw) (hne : k ≠ k') :
    laneGet w (laneSet v k e) k' = laneGet w v k' := by
  apply BitVec.eq_of_getLsbD_eq
  intro x hx
  rw [laneGet_bit _ _ _ hx, laneGet_bit _ _ _ hx, laneSet_bit _ _ _ _ (by omega), if_neg]
  rcases Nat.lt_or_gt_of_ne hne with h | h
  · have : w * k + w ≤ w * k' := by rw [← Nat.mul_succ]; exact Nat.mul_le_mul_left _ h
    omega
  · have : w * k' + w ≤ w * k := by rw [← Nat.mul_succ]; exact Nat.mul_le_mul_left _ h
    omega

/-- Bit x of a packed integer is bit x mod W of element x div W. -/
theorem packNat_testBit (hw : 0 < w) (es : List (BitVec w)) (x : Nat) :
    (packNat es).testBit x = (es.getD (x / w) 0).getLsbD (x % w) := by
  induction es generalizing x with
  | nil => simp [packNat]
  | cons e es ih =>
    rw [packNat, Nat.add_comm]
    by_cases hx : x < w
    · rw [Nat.testBit_two_pow_mul_add _ e.isLt, if_pos hx, Nat.div_eq_of_lt hx, Nat.mod_eq_of_lt hx,
        List.getD_cons_zero]
      rfl
    · have hxw : w ≤ x := Nat.le_of_not_lt hx
      rw [Nat.testBit_two_pow_mul_add _ e.isLt, if_neg hx, ih, Nat.div_eq_sub_div hw hxw, List.getD_cons_succ,
        Nat.mod_eq_sub_mod hxw]

end

/-- Lane k of a packed word is element k. -/
theorem laneGet_pack {c : Config} (h : c.wf = true) (es : List (BitVec c.elemWidth)) {k : Nat} (hk : k < c.lanes) :
    laneGet c.elemWidth (pack c es) k = es.getD k 0 := by
  have hin := Config.lane_inside h hk
  have hw := Config.elemWidth_pos h
  apply BitVec.eq_of_getLsbD_eq
  intro x hx
  rw [laneGet_bit _ _ _ hx, pack, BitVec.getLsbD_ofNat, packNat_testBit hw, Nat.mul_add_div hw, Nat.div_eq_of_lt hx,
    Nat.mul_add_mod, Nat.mod_eq_of_lt hx]
  simp only [Nat.add_zero, Bool.and_eq_right_iff_imp, decide_eq_true_eq]
  intro _
  omega

/-- Two words with the same lanes are equal: the lanes partition the word. -/
theorem eq_of_lanes {c : Config} (h : c.wf = true) {v v' : BitVec c.dataWidth}
    (hl : ∀ k < c.lanes, laneGet c.elemWidth v k = laneGet c.elemWidth v' k) : v = v' := by
  have hw := Config.elemWidth_pos h
  apply BitVec.eq_of_getLsbD_eq
  intro x hx
  have hk : x / c.elemWidth < c.lanes := by
    rw [Nat.div_lt_iff_lt_mul hw, Nat.mul_comm]
    exact Config.dataWidth_eq h ▸ hx
  have hm : x % c.elemWidth < c.elemWidth := Nat.mod_lt _ hw
  have := congrArg (fun e => e.getLsbD (x % c.elemWidth)) (hl _ hk)
  simpa only [laneGet_bit _ _ _ hm, Nat.div_add_mod] using this

end Sys2Proof.Machine
end

