-- ==== Sys2Proof/Laws/Memory.lean ====
section
/-!
SUPPORT. Data memory: a read after a write, the canonical form, and packed words (20_memory.md R52).
-/
namespace Sys2Proof.Machine

/-! ### One byte -/

theorem Mem.readByte_cons (a : Nat) (b : Byte) (m : Mem) (x : Nat) :
    Mem.readByte ((a, b) :: m) x = if a = x then b else Mem.readByte m x := rfl

/-- Below its lowest address a canonical memory reads as unlisted. -/
theorem Mem.readByte_below {lo : Nat} {m : Mem} (h : Mem.wfAbove lo m = true) {x : Nat} (hx : x < lo) :
    Mem.readByte m x = Mem.unlisted := by
  induction m generalizing lo with
  | nil => rfl
  | cons cell m ih =>
    obtain ⟨k, v⟩ := cell
    simp only [Mem.wfAbove, Bool.and_eq_true, decide_eq_true_eq] at h
    have hk : k ≠ x := by omega
    rw [Mem.readByte_cons, if_neg hk]
    exact ih h.2 (by omega)

theorem Mem.readByte_consCell {m : Mem} {a : Nat} (h : Mem.wfAbove (a + 1) m = true) (b : Byte) (x : Nat) :
    Mem.readByte (Mem.cons a b m) x = if a = x then b else Mem.readByte m x := by
  unfold Mem.cons
  split
  · next hb =>
    split
    · next hx => rw [hb, ← hx, Mem.readByte_below h (by omega)]
    · rfl
  · rfl

theorem Mem.wfAbove_mono {lo lo' : Nat} {m : Mem} (h : Mem.wfAbove lo m = true) (hle : lo' ≤ lo) :
    Mem.wfAbove lo' m = true := by
  cases m with
  | nil => rfl
  | cons cell m =>
    obtain ⟨k, v⟩ := cell
    simp only [Mem.wfAbove, Bool.and_eq_true, decide_eq_true_eq] at h ⊢
    exact ⟨⟨by omega, h.1.2⟩, h.2⟩

/-- Reading after writing one byte, for any address (the canonical form of the tail decides nothing is hidden). -/
theorem Mem.readByte_writeByte_above {lo : Nat} {m : Mem} (h : Mem.wfAbove lo m = true) (a : Nat) (b : Byte) (x : Nat) :
    Mem.readByte (Mem.writeByte m a b) x = if a = x then b else Mem.readByte m x := by
  induction m generalizing lo with
  | nil => exact Mem.readByte_consCell rfl b x
  | cons cell m ih =>
    obtain ⟨k, v⟩ := cell
    have hwf := h
    simp only [Mem.wfAbove, Bool.and_eq_true, decide_eq_true_eq] at h
    unfold Mem.writeByte
    split
    · next hlt =>
      apply Mem.readByte_consCell
      simp only [Mem.wfAbove, Bool.and_eq_true, decide_eq_true_eq]
      exact ⟨⟨by omega, h.1.2⟩, h.2⟩
    · next hlt =>
      split
      · next heq =>
        rw [Mem.readByte_consCell (by rw [heq]; exact h.2), Mem.readByte_cons, heq]
        split <;> rfl
      · next hne =>
        rw [Mem.readByte_cons, ih h.2, Mem.readByte_cons]
        split
        · next hk => rw [if_neg (by omega)]
        · rfl

/-- The byte just written reads back, and every other byte is unchanged. -/
theorem Mem.readByte_writeByte {m : Mem} (h : m.wf = true) (a : Nat) (b : Byte) (x : Nat) :
    (m.writeByte a b).readByte x = if a = x then b else m.readByte x :=
  Mem.readByte_writeByte_above h a b x

/-! ### The canonical form -/

theorem Mem.wfAbove_consCell {lo a : Nat} {m : Mem} (hlo : lo ≤ a) (h : Mem.wfAbove (a + 1) m = true) (b : Byte) :
    Mem.wfAbove lo (Mem.cons a b m) = true := by
  unfold Mem.cons
  split
  · exact Mem.wfAbove_mono h (by omega)
  · next hb =>
    simp only [Mem.wfAbove, Bool.and_eq_true, decide_eq_true_eq, bne_iff_ne, ne_eq]
    exact ⟨⟨hlo, hb⟩, h⟩

theorem Mem.wfAbove_writeByte {lo : Nat} {m : Mem} (h : Mem.wfAbove lo m = true) {a : Nat} (hlo : lo ≤ a) (b : Byte) :
    Mem.wfAbove lo (Mem.writeByte m a b) = true := by
  induction m generalizing lo with
  | nil => exact Mem.wfAbove_consCell hlo rfl b
  | cons cell m ih =>
    obtain ⟨k, v⟩ := cell
    have hwf := h
    simp only [Mem.wfAbove, Bool.and_eq_true, decide_eq_true_eq] at h
    unfold Mem.writeByte
    split
    · next hlt =>
      apply Mem.wfAbove_consCell hlo
      simp only [Mem.wfAbove, Bool.and_eq_true, decide_eq_true_eq]
      exact ⟨⟨by omega, h.1.2⟩, h.2⟩
    · next hlt =>
      split
      · next heq => exact Mem.wfAbove_consCell hlo (by rw [heq]; exact h.2) b
      · next hne =>
        simp only [Mem.wfAbove, Bool.and_eq_true, decide_eq_true_eq]
        exact ⟨h.1, ih h.2 (by omega)⟩

theorem Mem.wf_writeByte {m : Mem} (h : m.wf = true) (a : Nat) (b : Byte) : (m.writeByte a b).wf = true :=
  Mem.wfAbove_writeByte h (Nat.zero_le a) b

theorem Mem.wf_writeBytes {m : Mem} (h : m.wf = true) (a : Nat) (bs : List Byte) : (m.writeBytes a bs).wf = true := by
  induction bs generalizing m a with
  | nil => exact h
  | cons b bs ih => exact ih (Mem.wf_writeByte h a b) (a + 1)

theorem setMemWord_wf {c : Config} {m : Mem} (h : m.wf = true) (a : Nat) (v : BitVec c.dataWidth) :
    (setMemWord c m a v).wf = true :=
  Mem.wf_writeBytes h a _

theorem setMemWords_wf {c : Config} {m : Mem} (h : m.wf = true) (a : Nat) (vs : List (BitVec c.dataWidth)) :
    (setMemWords c m a vs).wf = true := by
  induction vs generalizing m a with
  | nil => exact h
  | cons v vs ih => exact ih (setMemWord_wf h a v) _

theorem State.havoc_wf {s : State} (h : s.mem.wf = true) (r : Region) : (s.havoc r).mem.wf = true :=
  Mem.wf_writeBytes h _ _

theorem resetOf_mem_wf (c : Config) : (State.resetOf c).mem.wf = true := rfl

theorem reset_mem_wf : State.reset.mem.wf = true := rfl

/-! ### Several bytes -/

/-- Reading one byte after writing several. -/
theorem Mem.readByte_writeBytes {m : Mem} (h : m.wf = true) (a : Nat) (bs : List Byte) (x : Nat) :
    (m.writeBytes a bs).readByte x = if a ≤ x ∧ x < a + bs.length then bs.getD (x - a) 0 else m.readByte x := by
  induction bs generalizing m a with
  | nil =>
    have hx : ¬(a ≤ x ∧ x < a + ([] : List Byte).length) := by simp only [List.length_nil]; omega
    rw [if_neg hx]
    rfl
  | cons b bs ih =>
    rw [Mem.writeBytes, ih (Mem.wf_writeByte h a b), Mem.readByte_writeByte h, List.length_cons]
    by_cases hax : a = x
    · subst hax
      rw [if_neg (by omega), if_pos rfl, if_pos (by omega), Nat.sub_self, List.getD_cons_zero]
    · rw [if_neg hax]
      by_cases hin : a + 1 ≤ x ∧ x < a + 1 + bs.length
      · rw [if_pos hin, if_pos (by omega), show x - a = (x - (a + 1)) + 1 by omega, List.getD_cons_succ]
      · rw [if_neg hin, if_neg (by omega)]

/-- A write of several bytes leaves every byte outside them alone. -/
theorem Mem.readByte_writeBytes_outside {m : Mem} (h : m.wf = true) {a : Nat} {bs : List Byte} {x : Nat}
    (hx : x < a ∨ a + bs.length ≤ x) : (m.writeBytes a bs).readByte x = m.readByte x := by
  rw [Mem.readByte_writeBytes h, if_neg (by omega)]

@[simp] theorem leBytes_length {w : Nat} (v : BitVec w) (n : Nat) : (leBytes v n).length = n := by
  simp [leBytes]

@[simp] theorem freeBytes_length (k n : Nat) : (freeBytes k n).length = n := by
  simp [freeBytes]

@[simp] theorem Mem.readBytes_length (m : Mem) (a n : Nat) : (m.readBytes a n).length = n := by
  simp [Mem.readBytes]

/-- Reads of memories that agree on the bytes read give the same bytes. -/
theorem Mem.readBytes_congr {m m' : Mem} {a n : Nat} (h : ∀ x, a ≤ x → x < a + n → m.readByte x = m'.readByte x) :
    m.readBytes a n = m'.readBytes a n := by
  apply List.map_congr_left
  intro b hb
  exact h _ (Nat.le_add_right a b) (by have := List.mem_range.mp hb; omega)

theorem memWord_congr {c : Config} {m m' : Mem} {a : Nat}
    (h : ∀ x, a ≤ x → x < a + c.wordBytes → m.readByte x = m'.readByte x) : memWord c m a = memWord c m' a := by
  unfold memWord
  rw [Mem.readBytes_congr h]

/-- A byte of memory after one packed word is written. -/
theorem readByte_setMemWord {c : Config} {m : Mem} (h : m.wf = true) (a : Nat) (v : BitVec c.dataWidth) (x : Nat) :
    (setMemWord c m a v).readByte x =
      if a ≤ x ∧ x < a + c.wordBytes then v.extractLsb' (8 * (x - a)) 8 else m.readByte x := by
  rw [setMemWord, Mem.readByte_writeBytes h, leBytes_length]
  split
  · next hx =>
    rw [leBytes, List.getD_eq_getElem?_getD, List.getElem?_map, List.getElem?_range (by omega)]
    rfl
  · rfl

/-! ### Little-endian integers (R52) -/

theorem leNat_lt (bs : List Byte) : leNat bs < 2 ^ (8 * bs.length) := by
  induction bs with
  | nil => simp [leNat]
  | cons b bs ih =>
    have hb := b.isLt
    rw [leNat, List.length_cons, Nat.mul_succ, Nat.pow_add, Nat.mul_comm (2 ^ _)]
    omega

/-- Bit x of a little-endian integer is bit x mod 8 of byte x div 8. -/
theorem leNat_testBit (bs : List Byte) (x : Nat) :
    (leNat bs).testBit x = (bs.getD (x / 8) 0).getLsbD (x % 8) := by
  induction bs generalizing x with
  | nil => simp [leNat]
  | cons b bs ih =>
    rw [leNat, Nat.add_comm, show (256 : Nat) = 2 ^ 8 from rfl]
    by_cases hx : x < 8
    · rw [Nat.testBit_two_pow_mul_add _ b.isLt, if_pos hx, Nat.div_eq_of_lt hx, Nat.mod_eq_of_lt hx,
        List.getD_cons_zero]
      rfl
    · rw [Nat.testBit_two_pow_mul_add _ b.isLt, if_neg hx, ih, show x / 8 = (x - 8) / 8 + 1 by omega,
        show x % 8 = (x - 8) % 8 by omega, List.getD_cons_succ]

/-- A word built from bytes has, in bit x, bit x mod 8 of byte x div 8 of memory. -/
theorem memWord_getLsbD {c : Config} (m : Mem) (a x : Nat) (hw : c.dataWidth = 8 * c.wordBytes) (hx : x < c.dataWidth) :
    (memWord c m a).getLsbD x = (m.readByte (a + x / 8)).getLsbD (x % 8) := by
  have hb : x / 8 < c.wordBytes := by omega
  rw [memWord, BitVec.getLsbD_ofNat, leNat_testBit, Mem.readBytes, List.getD_eq_getElem?_getD, List.getElem?_map,
    List.getElem?_range hb]
  simp [hx]

/-- A packed word reads back what was written (R52). -/
theorem memWord_setMemWord {c : Config} {m : Mem} (h : m.wf = true) (hw : c.dataWidth = 8 * c.wordBytes) (a : Nat)
    (v : BitVec c.dataWidth) : memWord c (setMemWord c m a v) a = v := by
  apply BitVec.eq_of_getLsbD_eq
  intro x hx
  rw [memWord_getLsbD _ _ _ hw hx, readByte_setMemWord h, if_pos (by omega), Nat.add_sub_cancel_left,
    BitVec.getLsbD_extractLsb']
  have h8 : x % 8 < 8 := Nat.mod_lt _ (by decide)
  simp [h8, Nat.div_add_mod]

/-- A packed word elsewhere is unchanged by a write. -/
theorem memWord_setMemWord_disjoint {c : Config} {m : Mem} (h : m.wf = true) {a a' : Nat} (v : BitVec c.dataWidth)
    (hd : a + c.wordBytes ≤ a' ∨ a' + c.wordBytes ≤ a) :
    memWord c (setMemWord c m a v) a' = memWord c m a' := by
  apply memWord_congr
  intro x h1 h2
  rw [readByte_setMemWord h, if_neg (by omega)]

/-- A byte of memory after a packed stream is written. -/
theorem readByte_setMemWords_outside {c : Config} {m : Mem} (h : m.wf = true) (a : Nat) (vs : List (BitVec c.dataWidth))
    {x : Nat} (hx : x < a ∨ a + vs.length * c.wordBytes ≤ x) : (setMemWords c m a vs).readByte x = m.readByte x := by
  induction vs generalizing m a with
  | nil => rfl
  | cons v vs ih =>
    have hl : (v :: vs).length * c.wordBytes = vs.length * c.wordBytes + c.wordBytes := by
      rw [List.length_cons, Nat.succ_mul]
    rw [setMemWords, ih (setMemWord_wf h a v) _ (by omega), readByte_setMemWord h, if_neg (by omega)]

/-- Word t of a packed stream reads back after the stream is written. -/
theorem memWord_setMemWords {c : Config} {m : Mem} (h : m.wf = true) (hw : c.dataWidth = 8 * c.wordBytes) (a : Nat)
    (vs : List (BitVec c.dataWidth)) (t : Nat) (ht : t < vs.length) :
    memWord c (setMemWords c m a vs) (a + t * c.wordBytes) = vs.getD t 0 := by
  induction vs generalizing m a t with
  | nil => exact absurd ht (Nat.not_lt_zero t)
  | cons v vs ih =>
    rw [setMemWords]
    cases t with
    | zero =>
      rw [Nat.zero_mul, Nat.add_zero, List.getD_cons_zero]
      rw [memWord_congr (m' := setMemWord c m a v)]
      · exact memWord_setMemWord h hw a v
      · intro x h1 h2
        exact readByte_setMemWords_outside (setMemWord_wf h a v) _ _ (Or.inl h2)
    | succ t =>
      rw [show a + (t + 1) * c.wordBytes = a + c.wordBytes + t * c.wordBytes by rw [Nat.succ_mul]; omega,
        List.getD_cons_succ]
      exact ih (setMemWord_wf h a v) _ t (Nat.lt_of_succ_lt_succ ht)

end Sys2Proof.Machine
end

