-- ==== Sys2Proof/Laws/PerInstr.lean ====
section
/-!
SUPPORT. Facts made once per constructor of Instr: the family CommandWord.
-/
namespace Sys2Proof.Laws.CommandWord

/-- The command word of a well-formed command carries START, its OP and no reserved bit, and it decodes to the command
whatever the reserved bits hold (30_encoding.md R81 to R84). -/
def Statement (i : Instr) : Prop :=
  i.wf = true ∧ (encode i &&& ~~~decodeMask) = 0 ∧
    ∀ v : Reg, startField v = true → opField v = i.op → decode v = .command i

theorem multiply : Statement .multiply :=
  ⟨rfl, by decide, fun v hs ho => by simp [decode, hs, ho, Instr.op]⟩

theorem transpose : Statement .transpose :=
  ⟨rfl, by decide, fun v hs ho => by simp [decode, hs, ho, Instr.op]⟩

end Sys2Proof.Laws.CommandWord
end

