-- ==== Sys2Proof/Laws/State.lean ====
section
/-!
SUPPORT. One lemma for each field of State and each update of Machine/Ops.lean, and for each field of Block and the two
ways a command ends: no later proof unfolds a record update.
-/
namespace Sys2Proof.Machine

/-! ### setBlock -/

section
variable (s : State) (b : Block s.cfg)

@[simp] theorem State.setBlock_cfg : (s.setBlock b).cfg = s.cfg := rfl
@[simp] theorem State.setBlock_block : (s.setBlock b).block = b := rfl
@[simp] theorem State.setBlock_mem : (s.setBlock b).mem = s.mem := rfl
@[simp] theorem State.setBlock_program : (s.setBlock b).program = s.program := rfl
@[simp] theorem State.setBlock_schedule : (s.setBlock b).schedule = s.schedule := rfl
@[simp] theorem State.setBlock_answers : (s.setBlock b).answers = s.answers := rfl
@[simp] theorem State.setBlock_trace : (s.setBlock b).trace = s.trace := rfl
@[simp] theorem State.setBlock_tainted : (s.setBlock b).tainted = s.tainted := rfl
@[simp] theorem State.setBlock_fresh : (s.setBlock b).fresh = s.fresh := rfl

end

/-! ### setMem -/

section
variable (s : State) (m : Mem)

@[simp] theorem State.setMem_cfg : (s.setMem m).cfg = s.cfg := rfl
@[simp] theorem State.setMem_block : (s.setMem m).block = s.block := rfl
@[simp] theorem State.setMem_mem : (s.setMem m).mem = m := rfl
@[simp] theorem State.setMem_program : (s.setMem m).program = s.program := rfl
@[simp] theorem State.setMem_schedule : (s.setMem m).schedule = s.schedule := rfl
@[simp] theorem State.setMem_answers : (s.setMem m).answers = s.answers := rfl
@[simp] theorem State.setMem_trace : (s.setMem m).trace = s.trace := rfl
@[simp] theorem State.setMem_tainted : (s.setMem m).tainted = s.tainted := rfl
@[simp] theorem State.setMem_fresh : (s.setMem m).fresh = s.fresh := rfl

end

/-! ### record -/

section
variable (s : State) (r : Request)

@[simp] theorem State.record_cfg : (s.record r).cfg = s.cfg := rfl
@[simp] theorem State.record_block : (s.record r).block = s.block := rfl
@[simp] theorem State.record_mem : (s.record r).mem = s.mem := rfl
@[simp] theorem State.record_program : (s.record r).program = s.program := rfl
@[simp] theorem State.record_schedule : (s.record r).schedule = s.schedule := rfl
@[simp] theorem State.record_answers : (s.record r).answers = s.answers := rfl
@[simp] theorem State.record_trace : (s.record r).trace = s.trace ++ [r] := rfl
@[simp] theorem State.record_tainted : (s.record r).tainted = s.tainted := rfl
@[simp] theorem State.record_fresh : (s.record r).fresh = s.fresh := rfl

end

/-! ### answer -/

section
variable (s : State) (a : Answer)

@[simp] theorem State.answer_cfg : (s.answer a).cfg = s.cfg := rfl
@[simp] theorem State.answer_block : (s.answer a).block = s.block := rfl
@[simp] theorem State.answer_mem : (s.answer a).mem = s.mem := rfl
@[simp] theorem State.answer_program : (s.answer a).program = s.program := rfl
@[simp] theorem State.answer_schedule : (s.answer a).schedule = s.schedule := rfl
@[simp] theorem State.answer_answers : (s.answer a).answers = s.answers ++ [a] := rfl
@[simp] theorem State.answer_trace : (s.answer a).trace = s.trace := rfl
@[simp] theorem State.answer_tainted : (s.answer a).tainted = s.tainted := rfl
@[simp] theorem State.answer_fresh : (s.answer a).fresh = s.fresh := rfl

end

/-! ### setTainted -/

section
variable (s : State) (t : Bool)

@[simp] theorem State.setTainted_cfg : (s.setTainted t).cfg = s.cfg := rfl
@[simp] theorem State.setTainted_block : (s.setTainted t).block = s.block := rfl
@[simp] theorem State.setTainted_mem : (s.setTainted t).mem = s.mem := rfl
@[simp] theorem State.setTainted_program : (s.setTainted t).program = s.program := rfl
@[simp] theorem State.setTainted_schedule : (s.setTainted t).schedule = s.schedule := rfl
@[simp] theorem State.setTainted_answers : (s.setTainted t).answers = s.answers := rfl
@[simp] theorem State.setTainted_trace : (s.setTainted t).trace = s.trace := rfl
@[simp] theorem State.setTainted_tainted : (s.setTainted t).tainted = t := rfl
@[simp] theorem State.setTainted_fresh : (s.setTainted t).fresh = s.fresh := rfl

end

/-! ### useFree -/

section
variable (s : State) (n : Nat)

@[simp] theorem State.useFree_cfg : (s.useFree n).cfg = s.cfg := rfl
@[simp] theorem State.useFree_block : (s.useFree n).block = s.block := rfl
@[simp] theorem State.useFree_mem : (s.useFree n).mem = s.mem := rfl
@[simp] theorem State.useFree_program : (s.useFree n).program = s.program := rfl
@[simp] theorem State.useFree_schedule : (s.useFree n).schedule = s.schedule := rfl
@[simp] theorem State.useFree_answers : (s.useFree n).answers = s.answers := rfl
@[simp] theorem State.useFree_trace : (s.useFree n).trace = s.trace := rfl
@[simp] theorem State.useFree_tainted : (s.useFree n).tainted = s.tainted := rfl
@[simp] theorem State.useFree_fresh : (s.useFree n).fresh = s.fresh + n := rfl

end

/-! ### setSchedule -/

section
variable (s : State) (ts : List Turn)

@[simp] theorem State.setSchedule_cfg : (s.setSchedule ts).cfg = s.cfg := rfl
@[simp] theorem State.setSchedule_block : (s.setSchedule ts).block = s.block := rfl
@[simp] theorem State.setSchedule_mem : (s.setSchedule ts).mem = s.mem := rfl
@[simp] theorem State.setSchedule_program : (s.setSchedule ts).program = s.program := rfl
@[simp] theorem State.setSchedule_schedule : (s.setSchedule ts).schedule = ts := rfl
@[simp] theorem State.setSchedule_answers : (s.setSchedule ts).answers = s.answers := rfl
@[simp] theorem State.setSchedule_trace : (s.setSchedule ts).trace = s.trace := rfl
@[simp] theorem State.setSchedule_tainted : (s.setSchedule ts).tainted = s.tainted := rfl
@[simp] theorem State.setSchedule_fresh : (s.setSchedule ts).fresh = s.fresh := rfl

end

/-! ### setProgram -/

section
variable (s : State) (ls : List HostLine)

@[simp] theorem State.setProgram_cfg : (s.setProgram ls).cfg = s.cfg := rfl
@[simp] theorem State.setProgram_block : (s.setProgram ls).block = s.block := rfl
@[simp] theorem State.setProgram_mem : (s.setProgram ls).mem = s.mem := rfl
@[simp] theorem State.setProgram_program : (s.setProgram ls).program = ls := rfl
@[simp] theorem State.setProgram_schedule : (s.setProgram ls).schedule = s.schedule := rfl
@[simp] theorem State.setProgram_answers : (s.setProgram ls).answers = s.answers := rfl
@[simp] theorem State.setProgram_trace : (s.setProgram ls).trace = s.trace := rfl
@[simp] theorem State.setProgram_tainted : (s.setProgram ls).tainted = s.tainted := rfl
@[simp] theorem State.setProgram_fresh : (s.setProgram ls).fresh = s.fresh := rfl

end

/-! ### havoc -/

section
variable (s : State) (r : Region)

@[simp] theorem State.havoc_cfg : (s.havoc r).cfg = s.cfg := rfl
@[simp] theorem State.havoc_block : (s.havoc r).block = s.block := rfl
@[simp] theorem State.havoc_mem : (s.havoc r).mem = s.mem.writeBytes r.base (freeBytes s.fresh r.len) := rfl
@[simp] theorem State.havoc_program : (s.havoc r).program = s.program := rfl
@[simp] theorem State.havoc_schedule : (s.havoc r).schedule = s.schedule := rfl
@[simp] theorem State.havoc_answers : (s.havoc r).answers = s.answers := rfl
@[simp] theorem State.havoc_trace : (s.havoc r).trace = s.trace := rfl
@[simp] theorem State.havoc_tainted : (s.havoc r).tainted = s.tainted := rfl
@[simp] theorem State.havoc_fresh : (s.havoc r).fresh = s.fresh + r.len := rfl

end

/-! ### raiseError -/

section
variable {c : Config} (code : ErrCode) (b : Block c)

@[simp] theorem raiseError_op : (raiseError code b).op = b.op := rfl
@[simp] theorem raiseError_status : (raiseError code b).status = Status.failed code := rfl
@[simp] theorem raiseError_arg0Lo : (raiseError code b).arg0Lo = b.arg0Lo := rfl
@[simp] theorem raiseError_arg0Hi : (raiseError code b).arg0Hi = b.arg0Hi := rfl
@[simp] theorem raiseError_arg1Lo : (raiseError code b).arg1Lo = b.arg1Lo := rfl
@[simp] theorem raiseError_arg1Hi : (raiseError code b).arg1Hi = b.arg1Hi := rfl
@[simp] theorem raiseError_arg2Lo : (raiseError code b).arg2Lo = b.arg2Lo := rfl
@[simp] theorem raiseError_arg2Hi : (raiseError code b).arg2Hi = b.arg2Hi := rfl
@[simp] theorem raiseError_dim0 : (raiseError code b).dim0 = b.dim0 := rfl
@[simp] theorem raiseError_dim1 : (raiseError code b).dim1 = b.dim1 := rfl
@[simp] theorem raiseError_dim2 : (raiseError code b).dim2 = b.dim2 := rfl
@[simp] theorem raiseError_fsm : (raiseError code b).fsm = .idle := rfl
@[simp] theorem raiseError_i : (raiseError code b).i = b.i := rfl
@[simp] theorem raiseError_j : (raiseError code b).j = b.j := rfl
@[simp] theorem raiseError_aCur : (raiseError code b).aCur = b.aCur := rfl
@[simp] theorem raiseError_aNext : (raiseError code b).aNext = b.aNext := rfl
@[simp] theorem raiseError_bCur : (raiseError code b).bCur = b.bCur := rfl
@[simp] theorem raiseError_bNext : (raiseError code b).bNext = b.bNext := rfl
@[simp] theorem raiseError_outWord : (raiseError code b).outWord = b.outWord := rfl

end

/-! ### complete -/

section
variable {c : Config} (b : Block c)

@[simp] theorem complete_op : (complete b).op = b.op := rfl
@[simp] theorem complete_status : (complete b).status = Status.completed := rfl
@[simp] theorem complete_arg0Lo : (complete b).arg0Lo = b.arg0Lo := rfl
@[simp] theorem complete_arg0Hi : (complete b).arg0Hi = b.arg0Hi := rfl
@[simp] theorem complete_arg1Lo : (complete b).arg1Lo = b.arg1Lo := rfl
@[simp] theorem complete_arg1Hi : (complete b).arg1Hi = b.arg1Hi := rfl
@[simp] theorem complete_arg2Lo : (complete b).arg2Lo = b.arg2Lo := rfl
@[simp] theorem complete_arg2Hi : (complete b).arg2Hi = b.arg2Hi := rfl
@[simp] theorem complete_dim0 : (complete b).dim0 = b.dim0 := rfl
@[simp] theorem complete_dim1 : (complete b).dim1 = b.dim1 := rfl
@[simp] theorem complete_dim2 : (complete b).dim2 = b.dim2 := rfl
@[simp] theorem complete_fsm : (complete b).fsm = .idle := rfl
@[simp] theorem complete_i : (complete b).i = b.i := rfl
@[simp] theorem complete_j : (complete b).j = b.j := rfl
@[simp] theorem complete_aCur : (complete b).aCur = b.aCur := rfl
@[simp] theorem complete_aNext : (complete b).aNext = b.aNext := rfl
@[simp] theorem complete_bCur : (complete b).bCur = b.bCur := rfl
@[simp] theorem complete_bNext : (complete b).bNext = b.bNext := rfl
@[simp] theorem complete_outWord : (complete b).outWord = b.outWord := rfl

end

/-! ### STATUS -/

@[simp] theorem Status.cleared_busy (st : Status) : st.cleared.busy = st.busy := rfl
@[simp] theorem Status.cleared_done (st : Status) : st.cleared.done = false := rfl
@[simp] theorem Status.cleared_err (st : Status) : st.cleared.err = false := rfl
@[simp] theorem Status.cleared_errcode (st : Status) : st.cleared.errcode = 0 := rfl
@[simp] theorem Status.launched_busy (st : Status) : st.launched.busy = true := rfl
@[simp] theorem Status.launched_done (st : Status) : st.launched.done = false := rfl
@[simp] theorem Status.launched_err (st : Status) : st.launched.err = false := rfl
@[simp] theorem Status.launched_errcode (st : Status) : st.launched.errcode = 0 := rfl
@[simp] theorem Status.failed_busy (code : ErrCode) : (Status.failed code).busy = false := rfl
@[simp] theorem Status.failed_done (code : ErrCode) : (Status.failed code).done = true := rfl
@[simp] theorem Status.failed_err (code : ErrCode) : (Status.failed code).err = true := rfl
@[simp] theorem Status.failed_errcode (code : ErrCode) : (Status.failed code).errcode = code.byte := rfl
@[simp] theorem Status.completed_busy : Status.completed.busy = false := rfl
@[simp] theorem Status.completed_done : Status.completed.done = true := rfl
@[simp] theorem Status.completed_err : Status.completed.err = false := rfl
@[simp] theorem Status.completed_errcode : Status.completed.errcode = 0 := rfl

end Sys2Proof.Machine
end

