-- ==== Sys2Proof/Laws/Turns.lean ====
section
/-!
SUPPORT. What each shared operation can do, said once: a launch, a port transaction, a host memory access, a block turn,
a step.
-/
namespace Sys2Proof.Machine

/-! ### A launch (45_control_port.md R192) -/

/-- A launch either arms the block or ends in the error completion with the first code that applies. -/
theorem launch_cases {c : Config} (op : BitVec 4) (b : Block c) :
    (entryCheck c op b.args = .none ∧
      launch op b = { b with op := op, status := b.status.launched, fsm := if op = 0#4 then .mulInit else .trnRun }) ∨
    (entryCheck c op b.args ≠ .none ∧
      launch op b = { b with op := op, status := Status.failed (entryCheck c op b.args), fsm := .idle }) := by
  have hargs : (Block.args { b with op := op, status := b.status.cleared } : Args) = b.args := rfl
  simp only [launch, hargs]
  cases hc : entryCheck c op b.args
  · exact .inl ⟨rfl, rfl⟩
  all_goals exact .inr ⟨by decide, rfl⟩

theorem startCommand_busy {op : BitVec 4} {s : State} (h : s.block.status.busy = true) : startCommand op s = s := by
  simp [startCommand, h]

theorem startCommand_idle {op : BitVec 4} {s : State} (h : s.block.status.busy = false) :
    startCommand op s = (s.setBlock (launch op s.block)).setTainted false := by
  simp [startCommand, h]

/-- Every command is the launch of its OP. -/
theorem exec_eq (i : Instr) (s : State) : exec i s = .next (startCommand i.op s) := by
  cases i <;> rfl

/-! ### The control port (R191 to R201) -/

/-- What a write to CTRL does, by its decoding. -/
theorem writeCtrl_next {v : Reg} {s t : State} (h : writeCtrl v s = .next t) :
    (∃ op, t = startCommand op s) ∨
    (s.block.status.busy = true ∧ t = s) ∨
    (s.block.status.busy = false ∧ ∃ op, t = s.setBlock { s.block with op := op }) := by
  unfold writeCtrl at h
  split at h
  · next i _ =>
    rw [exec_eq] at h
    injection h with h
    exact .inl ⟨i.op, h.symm⟩
  · next op _ =>
    injection h with h
    exact .inl ⟨op, h.symm⟩
  · next op _ =>
    injection h with h
    cases hb : s.block.status.busy
    · rw [hb] at h
      exact .inr (.inr ⟨rfl, op, h.symm⟩)
    · rw [hb] at h
      exact .inr (.inl ⟨rfl, h.symm⟩)

/-- What an admitted write transaction can do. -/
theorem portWrite_next {off bits : Nat} {v : Reg} {s t : State} (h : portWrite off bits v s = .next t) :
    t = s ∨
    (s.block.status.busy = false ∧ ∃ op, t = s.setBlock { s.block with op := op }) ∨
    (s.block.status.busy = false ∧ ∃ op, t = (s.setBlock (launch op s.block)).setTainted false) ∨
    (s.block.status.busy = false ∧ t = s.setBlock (storeArg s.block off v)) := by
  unfold portWrite at h
  split at h
  · nomatch h
  · split at h
    · obtain ⟨op, rfl⟩ | ⟨_, rfl⟩ | ⟨hb, op, rfl⟩ := writeCtrl_next h
      · cases hb : s.block.status.busy
        · exact .inr (.inr (.inl ⟨rfl, op, startCommand_idle hb⟩))
        · exact .inl (startCommand_busy hb)
      · exact .inl rfl
      · exact .inr (.inl ⟨hb, op, rfl⟩)
    · injection h with h
      subst h
      cases hb : s.block.status.busy
      · exact .inr (.inr (.inr ⟨rfl, by simp [writeOther, hb]⟩))
      · exact .inl (by simp [writeOther, hb])

/-- An admitted read transaction gives the host the register's value and changes nothing else. -/
theorem portRead_next {off bits : Nat} {s t : State} (h : portRead off bits s = .next t) :
    t = s.answer (.port off (portValue s.block off)) := by
  unfold portRead at h
  split at h
  · nomatch h
  · injection h with h
    exact h.symm

/-- A plain register write touches only the ARG and DIM registers. -/
theorem storeArg_frame {c : Config} (b : Block c) (off : Nat) (v : Reg) :
    (storeArg b off v).op = b.op ∧ (storeArg b off v).status = b.status ∧ (storeArg b off v).fsm = b.fsm ∧
    (storeArg b off v).i = b.i ∧ (storeArg b off v).j = b.j ∧ (storeArg b off v).aCur = b.aCur ∧
    (storeArg b off v).aNext = b.aNext ∧ (storeArg b off v).bCur = b.bCur ∧ (storeArg b off v).bNext = b.bNext ∧
    (storeArg b off v).outWord = b.outWord := by
  unfold storeArg
  repeat' split
  all_goals simp

/-! ### The host's memory accesses (70_reset_and_hazards.md R267) -/

/-- What a host write can do to the rest of the state. -/
theorem hostWrite_next {a : Nat} {bytes : List Byte} {s t : State} (h : hostWrite a bytes s = .next t) :
    a + bytes.length ≤ 2 ^ s.cfg.addrWidth ∧
    t = breakDuty { base := a, len := bytes.length } (s.setMem (s.mem.writeBytes a bytes)) := by
  unfold hostWrite at h
  split at h
  · nomatch h
  · next hle =>
    injection h with h
    exact ⟨Nat.le_of_not_lt hle, h.symm⟩

/-- A host read answers and uses free values; nothing else changes. -/
theorem hostRead_next {a n : Nat} {s t : State} (h : hostRead a n s = .next t) :
    a + n ≤ 2 ^ s.cfg.addrWidth ∧
    t = (s.answer (.mem a ((List.range n).map fun k => hostByte s (a + k) k))).useFree n := by
  unfold hostRead at h
  split at h
  · nomatch h
  · next hle =>
    injection h with h
    exact ⟨Nat.le_of_not_lt hle, h.symm⟩

/-- The four cases of a host write that has been performed. -/
theorem breakDuty_cases (r : Region) (s : State) :
    (s.block.status.busy = false ∧ breakDuty r s = s) ∨
    (s.block.status.busy = true ∧ overlaps r (runningOutput s) = true ∧
      breakDuty r s = (s.havoc (runningOutput s)).setTainted true) ∨
    (s.block.status.busy = true ∧ overlaps r (runningOutput s) = false ∧
      ((runningInputs s).any fun q => overlaps r q) = true ∧ breakDuty r s = s.setTainted true) ∨
    (s.block.status.busy = true ∧ overlaps r (runningOutput s) = false ∧
      ((runningInputs s).any fun q => overlaps r q) = false ∧ breakDuty r s = s) := by
  unfold breakDuty
  cases s.block.status.busy <;> cases overlaps r (runningOutput s) <;>
    cases ((runningInputs s).any fun q => overlaps r q) <;> simp

/-! ### The host's turn -/

/-- What one line of the host's program can do, when it answers a next state. -/
theorem hostLine_next {l : HostLine} {s t : State} (h : hostLine l s = .next t) :
    (∃ off bits v, portWrite off bits v s = .next t) ∨
    (∃ off ls, t = (s.setProgram ls).answer (.port off (portValue s.block off))) ∨
    (∃ a bytes, l = .memWr a bytes ∧ hostWrite a bytes s = .next t) ∨
    (∃ a n, l = .memRd a n ∧ hostRead a n s = .next t) := by
  cases l with
  | wr off bits v => exact .inl ⟨off, bits, v, h⟩
  | rd off bits => exact .inr (.inl ⟨off, s.program, portRead_next h⟩)
  | poll off mask val =>
    simp only [hostLine, pollOnce] at h
    split at h
    · exact .inr (.inl ⟨off, s.program, portRead_next h⟩)
    · exact .inr (.inl ⟨off, .poll off mask val :: s.program, portRead_next h⟩)
  | busWr a bits v =>
    simp only [hostLine, busWrite] at h
    split at h
    · exact .inl ⟨_, bits, v, h⟩
    · nomatch h
  | busRd a bits =>
    simp only [hostLine, busRead] at h
    split at h
    · exact .inr (.inl ⟨_, s.program, portRead_next h⟩)
    · nomatch h
  | memWr a bytes => exact .inr (.inr (.inl ⟨a, bytes, rfl, h⟩))
  | memRd a n => exact .inr (.inr (.inr ⟨a, n, rfl, h⟩))

/-! ### The block's turn (60_exceptions.md R236) -/

/-- A block turn is its micro-step, with its request recorded, or nothing while the platform refuses the request. -/
theorem blockTurn_cases (s : State) :
    (nextRequest s.block = none ∧ blockTurn s = microStep s) ∨
    (∃ r, nextRequest s.block = some r ∧ admits s.cfg r = true ∧ blockTurn s = (microStep s).record r) ∨
    (∃ r, nextRequest s.block = some r ∧ admits s.cfg r = false ∧ blockTurn s = s) := by
  unfold blockTurn
  cases hr : nextRequest s.block with
  | none => exact .inl ⟨rfl, rfl⟩
  | some r =>
    cases ha : admits s.cfg r
    · exact .inr (.inr ⟨r, rfl, ha, by simp [ha]⟩)
    · exact .inr (.inl ⟨r, rfl, ha, by simp [ha]⟩)

/-- An idle block has no step. -/
theorem blockTurn_idle {s : State} (h : s.block.fsm = .idle) : blockTurn s = s := by
  simp [blockTurn, nextRequest, mulRequest, microStep, h]

/-! ### A step -/

/-- A step is one turn of one agent, over the schedule's rest. -/
theorem step_cases {s t : State} (h : step s = .next t) :
    ∃ ts, hostTurn (s.setSchedule ts) = .next t ∨ t = blockTurn (s.setSchedule ts) ∨ t = resetTurn (s.setSchedule ts) := by
  have key : ∀ (u : Turn) (ts : List Turn), turn u (s.setSchedule ts) = .next t →
      hostTurn (s.setSchedule ts) = .next t ∨ t = blockTurn (s.setSchedule ts) ∨ t = resetTurn (s.setSchedule ts) := by
    intro u ts hu
    cases u with
    | host => exact .inl hu
    | block => injection hu with hu; exact .inr (.inl hu.symm)
    | reset => injection hu with hu; exact .inr (.inr hu.symm)
  unfold step at h
  split at h
  · next hs =>
    have he : s.setSchedule [] = s := by rw [← hs]; rfl
    exact ⟨[], key (unscheduledTurn s) [] (by rw [he]; exact h)⟩
  · next u ts _ => exact ⟨ts, key u ts h⟩

end Sys2Proof.Machine
end

