-- ==== Sys2Proof/Tests/Slice0.lean ====
section
/-!
SUPPORT. The model's own tests: ill-formed terms, command words written from 30_encoding.md, the spec's test vectors
(95_test_vectors.md, each named), and a witness for every obligation that has hypotheses. MINI is 00_scope.md R11.
-/
-- The tests are checked one after another: checked side by side they need more thread stacks than the memory limit allows.
set_option Elab.async false

namespace Sys2Proof.Machine.Tests

/-! ### Ill-formed terms (00_scope.md R6, R7, R9) -/

theorem test_wf_configurations : Config.standard.wf = true ∧ Config.mini.wf = true := by decide

theorem test_wf_refuses_elemWidth :
    { Config.mini with elemWidth := 0 }.wf = false ∧
    { Config.mini with elemWidth := 12, dataWidth := 48 }.elemWidthOk = false := by decide

theorem test_wf_refuses_dataWidth : { Config.mini with dataWidth := 36 }.dataWidthOk = false := by decide

theorem test_wf_refuses_lanes :
    { Config.mini with dataWidth := 24 }.lanesOk = false ∧ { Config.mini with dataWidth := 0 }.lanesOk = false := by decide

theorem test_wf_refuses_addrWidth :
    { Config.mini with addrWidth := 0 }.addrWidthOk = false ∧ { Config.mini with addrWidth := 65 }.addrWidthOk = false := by
  decide

theorem test_wf_instr : Instr.multiply.wf = true ∧ Instr.transpose.wf = true := by decide

/-! ### Command words written bit by bit from R81 and R82 -/

theorem test_decode_multiply : decode 0b00000000000000000000000000000001#32 = .command .multiply := by decide

theorem test_decode_transpose : decode 0b00000000000000000000000000010001#32 = .command .transpose := by decide

theorem test_decode_ignores_reserved_bits : decode 0xFFFFFF1F#32 = .command .transpose := by decide

theorem test_decode_rejects_by_name :
    decode 0x00000021#32 = .reservedOp 2#4 ∧ decode 0x000000F0#32 = .noLaunch 15#4 := by decide

theorem test_encode_words : encode .multiply = 0x00000001#32 ∧ encode .transpose = 0x00000011#32 := by decide

theorem test_decodeTableWord :
    decodeTableWord 32 0x01 = some .multiply ∧ decodeTableWord 32 0x11 = some .transpose ∧
    decodeTableWord 32 0x21 = none ∧ decodeTableWord 40 0x01 = none := by decide

/-! ### The codec's and the multiply-reduce's vectors -/

/-- CODEC-1 to CODEC-4. -/
theorem test_codec_words :
    pack Config.mini [1#8, 2#8, 3#8, 4#8] = 0x04030201#32 ∧
    unpack Config.mini 0xDEADBEEF#32 = [0xEF#8, 0xBE#8, 0xAD#8, 0xDE#8] ∧
    laneSet 0xDEADBEEF#32 2 0x55#8 = 0xDE55BEEF#32 ∧ laneSet 0x00000000#32 3 0xFF#8 = 0xFF000000#32 := by decide

/-- CODEC-5 and CODEC-10. -/
theorem test_codec_shapes :
    (match encodeMatrix Config.mini ⟨2, 2, [1#8, 2#8, 3#8, 4#8]⟩ with
      | .ok ws => decide (ws = [0x04030201#32])
      | .error _ => false) = true ∧
    (match encodeMatrix Config.mini ⟨1, 2, [1#8, 2#8]⟩ with
      | .ok _ => false
      | .error r => decide (r = .codecShape)) = true := by decide

/-- CODEC-9: the bytes of a word in memory, lowest address first. -/
theorem test_word_bytes :
    (setMemWord Config.mini [] 0x100 0x04030201#32).readBytes 0x100 4 = [1#8, 2#8, 3#8, 4#8] := by decide

/-- DOT-D1 to DOT-D4 and DOT-D6 (MINI). -/
theorem test_dot_mini :
    dot Config.mini 0x04030201#32 0x08070605#32 = 0x46#8 ∧ dot Config.mini 0xFFFFFFFF#32 0xFFFFFFFF#32 = 0x04#8 ∧
    dot Config.mini 0x00000080#32 0x00000002#32 = 0x00#8 ∧ dot Config.mini 0x40404040#32 0x01010101#32 = 0x00#8 ∧
    dot Config.mini 0x40302010#32 0x10101010#32 = 0x00#8 := by decide

/-- DOT-D7 and DOT-D11 (DEFAULT). -/
theorem test_dot_default :
    dot Config.standard (BitVec.allOnes 512) (BitVec.allOnes 512) = 0x10#32 ∧
    dot Config.standard 0xFFFFFFFF#512 0xFFFFFFFF#512 = 1#32 := by decide +kernel

/-! ### States to test on -/

/-- Memory with packed MINI words at an address. -/
def withWords (m : Mem) (a : Nat) (ws : List (BitVec 32)) : Mem := setMemWords Config.mini m a ws

/-- A MINI block with arguments set through its registers. -/
def argsBlock (a0 a1 a2 : BitVec 64) (d0 d1 d2 : Reg) : Block Config.mini :=
  { Block.reset Config.mini with
    arg0Lo := a0.extractLsb' 0 32
    arg0Hi := a0.extractLsb' 32 32
    arg1Lo := a1.extractLsb' 0 32
    arg1Hi := a1.extractLsb' 32 32
    arg2Lo := a2.extractLsb' 0 32
    arg2Hi := a2.extractLsb' 32 32
    dim0 := d0
    dim1 := d1
    dim2 := d2 }

/-- An idle MINI machine with arguments and memory. -/
def ready (b : Block Config.mini) (m : Mem) : State := { State.resetOf Config.mini with block := b, mem := m }

/-- The T of MUL-1. -/
def tWords : List (BitVec 32) := [0x00030001#32, 0x03000100#32, 0x00010002#32, 0x01000200#32]

/-- The memory of MUL-1. -/
def mulMem : Mem := withWords (withWords [] 0x100 [0x04030201#32]) 0x200 tWords

/-- The base case of ERR-1 and MUL-1: ready to launch MULTIPLY. -/
def mulReady : State := ready (argsBlock 0x100 0x200 0x300 1 4 4) mulMem

/-- The base case of ERR-19 and TRN-1: ready to launch TRANSPOSE. -/
def trnReady : State :=
  ready (argsBlock 0x100 0 0x200 4 4 0)
    (withWords [] 0x100 [0x04030201#32, 0x08070605#32, 0x0C0B0A09#32, 0x100F0E0D#32])

/-- A block of MUL-1 in the middle of its run. -/
def midBlock (f : Fsm) : Block Config.mini :=
  { argsBlock 0x100 0x200 0x300 1 4 4 with
    status := { busy := true, done := false, err := false, errcode := 0 }, fsm := f, aCur := 0x04030201#32,
    bCur := 0x00030001#32 }

/-- MUL-1 in the middle of its run. -/
def midRun (f : Fsm) : State := ready (midBlock f) mulMem

/-- A platform that refuses 0x100 to 0x103. -/
def refusingConfig : Config := { Config.mini with holes := [⟨0x100, 4⟩] }

/-- An outcome's next state meets a check. -/
def nextIs (o : Host.Outcome State Fault Refusal) (p : State → Bool) : Bool :=
  match o with
  | .next t => p t
  | .fault _ => false
  | .refused _ => false

/-- STATUS after launching `i` with these arguments (MINI). -/
def launchStatus (i : Instr) (a0 a1 a2 : BitVec 64) (d0 d1 d2 : Reg) : Reg :=
  match exec i (ready (argsBlock a0 a1 a2 d0 d1 d2) []) with
  | .next t => t.block.status.word
  | .fault _ => 0xFFFFFFFF#32
  | .refused _ => 0xFFFFFFFF#32

/-! ### Entry checks: ERR-1 to ERR-27, one or more for each clause of the two entry-check obligations -/

theorem test_multiply_entry_checks :
    launchStatus .multiply 0x100 0x200 0x300 1 4 4 = 0x00000001#32 ∧
    launchStatus .multiply 0x100 0x200 0x300 0 4 4 = 0x00000206#32 ∧
    launchStatus .multiply 0x100 0x200 0x300 1 8 4 = 0x00000306#32 ∧
    launchStatus .multiply 0x100 0x200 0x300 1 4 8 = 0x00000406#32 ∧
    launchStatus .multiply 0x102 0x200 (0 - 4) 2 4 4 = 0x00000606#32 ∧
    launchStatus .multiply 0x100 0x200 (0 - 4) 2 4 4 = 0x00000706#32 ∧
    launchStatus .multiply 0x100 0x200 (0 - 8) 2 4 4 = 0x00000001#32 ∧
    launchStatus .multiply 0x100 0x200 0x20C 1 4 4 = 0x00000806#32 ∧
    launchStatus .multiply 0x100 0x200 0x210 1 4 4 = 0x00000001#32 := by decide +kernel

theorem test_transpose_entry_checks :
    launchStatus .transpose 0x100 0 0x200 4 4 0 = 0x00000001#32 ∧
    launchStatus .transpose 0x100 0 0x200 0 4 0 = 0x00000206#32 ∧
    launchStatus .transpose 0x100 0 0x200 4 6 0 = 0x00000306#32 ∧
    launchStatus .transpose 0x100 0 0x200 1 2 0 = 0x00000506#32 ∧
    launchStatus .transpose 0x100 0 0x202 2 2 0 = 0x00000606#32 ∧
    launchStatus .transpose (0 - 8) 0 0x200 4 4 0 = 0x00000706#32 ∧
    launchStatus .transpose 0x100 0 0x10C 4 4 0 = 0x00000806#32 ∧
    launchStatus .transpose 0x100 3 0x200 2 2 7 = 0x00000001#32 := by decide +kernel

/-! ### One step of each kind -/

/-- CTL-2 and R203: the word of MULTIPLY placed after reset is run by the next step and fails E_DIM0. -/
theorem test_step_runs_placed_word :
    nextIs (step (State.reset.withFetchWord 32 0x01)) (fun t => t.block.status.word == 0x206#32) = true ∧
    nextIs (step (State.reset.withFetchWord 32 0x11)) (fun t => t.block.status.word == 0x206#32) = true := by
  decide +kernel

/-- CTL-1, CTL-5 and CTL-7: what reads after reset and after writes without START return. -/
theorem test_control_port :
    portValue State.reset.block 0x04 = 0#32 ∧
    nextIs (portWrite 0x00 32 0xFFFFFF1E#32 State.reset) (fun t => portValue t.block 0x00 == 0x10#32) = true ∧
    nextIs (portWrite 0x08 32 0x12345678#32 State.reset) (fun t => portValue t.block 0x08 == 0#32) = true ∧
    nextIs (portWrite 0x28 32 0x04#32 State.reset) (fun t => portValue t.block 0x28 == 4#32) = true := by decide +kernel

/-- MUL-1's first column: dot([1,2,3,4], [1,0,3,0]) = 10 goes into lane 0, and the next column's word is loaded. -/
theorem test_mulCol_packs_and_swaps :
    (blockTurn (midRun .mulCol)).block.outWord.toNat = 0x0A ∧
    (blockTurn (midRun .mulCol)).block.bCur.toNat = 0x03000100 := by decide +kernel

/-- MUL_FLUSH of the only row writes out_word at out and completes. -/
theorem test_mulFlush_writes_and_completes :
    ((blockTurn { midRun .mulFlush with block := { midBlock .mulFlush with outWord := 0x08050E0A#32 } }).mem.readBytes
      0x300 4 = [0x0A#8, 0x0E#8, 0x05#8, 0x08#8]) ∧
    (blockTurn (midRun .mulFlush)).block.status.word = 2#32 := by decide +kernel

/-- TRN-2: 2 x 8. -/
theorem test_trnRun_2x8 :
    (memWords Config.mini
      (trnRun (ready (argsBlock 0x100 0 0x200 2 8 0)
        (withWords [] 0x100 [0x03020100#32, 0x07060504#32, 0x0B0A0908#32, 0x0F0E0D0C#32]))).mem 0x200 4
      = [0x09010800#32, 0x0B030A02#32, 0x0D050C04#32, 0x0F070E06#32]) := by decide +kernel

/-- TRN-3: 8 x 2, the same source words. -/
theorem test_trnRun_8x2 :
    (memWords Config.mini
      (trnRun (ready (argsBlock 0x100 0 0x200 8 2 0)
        (withWords [] 0x100 [0x03020100#32, 0x07060504#32, 0x0B0A0908#32, 0x0F0E0D0C#32]))).mem 0x200 4
      = [0x06040200#32, 0x0E0C0A08#32, 0x07050301#32, 0x0F0D0B09#32]) := by decide +kernel

/-- CTL-9 and CTL-10: writes while BUSY are ignored. -/
theorem test_writes_ignored_while_busy :
    nextIs (portWrite 0x28 32 8#32 (midRun .mulCol)) (fun t => t.block.dim0 == 1#32) = true ∧
    nextIs (portWrite 0x00 32 0x11#32 (midRun .mulCol)) (fun t => t.block.op == 0#4) = true := by decide +kernel

/-- CTL-12: a 16-bit access and offset 0x102 are refused. -/
theorem test_inadmissible_refused :
    (match portWrite 0x00 16 0#32 State.reset with | .refused r => decide (r = .portWidth 16) | _ => false) = true ∧
    (match portRead 0x102 32 State.reset with | .refused r => decide (r = .portMisaligned 0x102) | _ => false) = true := by
  decide +kernel

/-- A packed byte that is 0 leaves no cell: equal memories are equal lists. -/
theorem test_memory_canonical :
    Mem.writeByte (Mem.writeByte [] 5 7#8) 5 0#8 = [] ∧
    Mem.writeByte (Mem.writeByte [] 5 7#8) 3 1#8 = [(3, 1#8), (5, 7#8)] := by decide

/-! ### Witnesses: every obligation's hypotheses are met by a concrete state and operands -/

/-- CommandWordTable, ReservedBitsAreIgnored, ReservedOpRaisesError: words of each kind, and an idle state. -/
theorem witness_command_words :
    0xFFFFFF0F#32 &&& 0x000000F1#32 = 0x00000001#32 ∧ 0x00000011#32 &&& 0x000000F1#32 = 0x00000011#32 ∧
    0x00000021#32 &&& 0x000000F1#32 = BitVec.ofNat 32 (16 * 2 + 1) ∧
    0x000000F1#32 &&& 0x000000F1#32 = BitVec.ofNat 32 (16 * 15 + 1) ∧ (0x000000F0#32).getLsbD 0 = false ∧
    0xFFFFFF0E#32 &&& 0x000000F1#32 = 0#32 ∧ (0x00000021#32).getLsbD 0 = true ∧
    2 ≤ ((0x00000021#32).extractLsb' 4 4).toNat ∧ State.reset.block.status.busy = false := by decide

/-- StepRunsDecodedCommand and PlacedWordRunsNext. -/
theorem witness_step_runs_command :
    (State.reset.withFetchWord 32 0x01).schedule = [.host] ∧
    (State.reset.withFetchWord 32 0x01).program = [.wr 0x00 32 0x01#32] ∧ decode 0x01#32 = .command .multiply ∧
    ({ State.reset with program := launchLines 1#4 } : State).program = [.wr 0x00 32 0x11#32] ∧
    ({ State.reset with program := launchLines 1#4 } : State).schedule = [] ∧
    decodeTableWord 32 0x11 = some .transpose := by decide

/-- MultiplyEntryChecks: each clause's arguments, at its boundary; the STATUS each leaves is
`test_multiply_entry_checks`. -/
theorem witness_multiply_entry_checks :
    mulReady.cfg.wf = true ∧ mulReady.block.status.busy = false ∧
    entryCheck Config.mini 0 (argsBlock 0x100 0x200 0x300 3 4 4).args = .dim0 ∧
    entryCheck Config.mini 0 (argsBlock 0x100 0x200 0x300 1 3 4).args = .dim1 ∧
    entryCheck Config.mini 0 (argsBlock 0x100 0x200 0x300 1 4 0).args = .dim2 ∧
    entryCheck Config.mini 0 (argsBlock 0x100 0x200 0x301 1 4 4).args = .align ∧
    entryCheck Config.mini 0 (argsBlock 0x100 0x200 (0 - 4) 2 4 4).args = .range ∧
    entryCheck Config.mini 0 (argsBlock 0x100 0x200 0x100 1 4 4).args = .overlap ∧
    entryCheck Config.mini 0 (argsBlock 0x100 0x200 0x104 1 4 4).args = .none := by decide +kernel

/-- TransposeEntryChecks: each clause's arguments. -/
theorem witness_transpose_entry_checks :
    trnReady.cfg.wf = true ∧ trnReady.block.status.busy = false ∧
    entryCheck Config.mini 1 (argsBlock 0x100 0 0x200 0 4 0).args = .dim0 ∧
    entryCheck Config.mini 1 (argsBlock 0x100 0 0x200 4 0 0).args = .dim1 ∧
    entryCheck Config.mini 1 (argsBlock 0x100 0 0x200 2 1 0).args = .shape ∧
    entryCheck Config.mini 1 (argsBlock 0x101 0 0x200 2 2 0).args = .align ∧
    entryCheck Config.mini 1 (argsBlock 0x100 0 (0 - 12) 4 4 0).args = .range ∧
    entryCheck Config.mini 1 (argsBlock 0x100 0 0x100 4 4 0).args = .overlap ∧
    entryCheck Config.mini 1 (argsBlock 0x100 0 0x110 4 4 0).args = .none := by decide +kernel

/-- Dim0MustBePowerOfTwo: a value that is none of 2^0 to 2^31, and both ends of the legal ones. -/
theorem witness_dim0 :
    (∀ k ≤ 31, (argsBlock 0x100 0x200 0x300 3 4 4).dim0.toNat ≠ 2 ^ k) ∧
    (argsBlock 0x100 0x200 0x300 1 4 4).dim0.toNat = 2 ^ 0 ∧
    (argsBlock 0x100 0x200 0x300 0x80000000 4 4).dim0.toNat = 2 ^ 31 := by decide +kernel

/-- ErrorCompletion: a launch that reports E_DIM0. -/
theorem witness_error_completion :
    State.reset.block.status.busy = false ∧ (0x01#32).getLsbD 0 = true ∧ ErrCode.dim0 ≠ .none ∧
    entryCheck State.reset.cfg ((0x01#32).extractLsb' 4 4) State.reset.block.args = .dim0 := by decide +kernel

/-- CommandWhileBusyIgnored, OperandsFrozenWhileBusy, BrokenDutyGivesAnyValue: a BUSY state; LaunchFrame: a launch that
answers. -/
theorem witness_busy :
    (midRun .mulCol).block.status.busy = true ∧ (exec .multiply mulReady = .next (startCommand 0#4 mulReady)) :=
  ⟨rfl, rfl⟩

/-- CtrlWriteWithoutStart, ArgumentWrite, UnmappedOffset, InadmissibleAccessRefused, BusAddressIsBasePlusOffset. -/
theorem witness_control_port :
    (0xF0#32).getLsbD 0 = false ∧ 0x10 ∈ [0x10, 0x14, 0x18, 0x1C, 0x20, 0x24, 0x28, 0x2C, 0x30] ∧
    (0x34 % 4 = 0 ∧ 0x34 ≤ 0xFC) ∧ (0xFC % 4 = 0 ∧ 0xFC ≤ 0xFC) ∧ (16 : Nat) ≠ 32 ∧ 0x102 % 4 ≠ 0 ∧
    (0x100 % 4 = 0 ∧ 0x100 ≤ 0x100) ∧ 0xFC < 0x100 := by decide

/-- StatusReadReturnsFields, StatusClearedOnlyByLaunchOrReset, StatusInvariantKept, NoErrorAfterLaunch: STATUS after an
error keeps its invariants. -/
theorem witness_status_ok : StatusOk (Status.failed .overlap) ∧ StatusOk (midBlock .mulCol).status := by
  constructor <;> constructor <;> decide

/-- StatusClearedOnlyByLaunchOrReset: a host turn that clears DONE and ERR. -/
theorem witness_status_cleared :
    nextIs (hostTurn { mulReady with block := raiseError .dim0 mulReady.block, program := launchLines 0#4 })
      (fun t => !t.block.status.done && !t.block.status.err) = true := by decide +kernel

/-- PortTransactionsLeaveMemoryAlone: a port line that answers. -/
theorem witness_port_line : nextIs (hostLine (.wr 0x00 32 0x01#32) mulReady) (fun t => t.block.fsm == .mulInit) = true := by
  decide +kernel

/-- The micro-step obligations, BlockTurnFrame, NormalCompletion: states in each sequencer state whose request is
admitted, on both sides of each counter's bound. -/
theorem witness_micro_steps :
    (midRun .mulInit).block.fsm = .mulInit ∧ admits Config.mini (.read (midBlock .mulInit).args.a0) = true ∧
    (midBlock .mulRow).args.d0 ≤ (midBlock .mulRow).i.toNat + 1 ∧
    ({ midBlock .mulRow with dim0 := 2 }).i.toNat + 1 < ({ midBlock .mulRow with dim0 := 2 }).args.d0 ∧
    admits Config.mini (.read (0x100 + (0 + 1) * Config.mini.wordBytes)) = true ∧
    admits Config.mini (.read (midBlock .mulBload).args.a1) = true ∧
    (midBlock .mulCol).j.toNat + 1 < (midBlock .mulCol).args.d2 ∧
    ({ midBlock .mulCol with j := 3 }).args.d2 ≤ ({ midBlock .mulCol with j := 3 }).j.toNat + 1 ∧
    (midRun .mulFlush).tainted = false ∧ admits Config.mini (.write 0x300) = true ∧
    nextRequest (midBlock .mulFlush) = some (.write 0x300) ∧ (midRun .mulFlush).mem.wf = true ∧
    nextRequest { trnReady.block with fsm := .trnRun } = some (.transpose 0x100 0x200 4) ∧
    admits Config.mini (.transpose 0x100 0x200 4) = true := by decide +kernel

/-- StuckUntilReset: the platform refuses the block's request. -/
theorem witness_stuck :
    stuck { State.resetOf refusingConfig with
      block := { Block.reset refusingConfig with
        status := { busy := true, done := false, err := false, errcode := 0 }, fsm := .mulInit, arg0Lo := 0x100 } }
      = true := by decide +kernel

/-- MultiplyComputesProduct, MultiplyRequestSequence and HiddenStateDoesNotLeak: MUL-1. -/
theorem witness_multiply_run :
    mulReady.cfg.wf = true ∧ mulReady.mem.wf = true ∧ mulReady.block.status.busy = false ∧ mulReady.schedule = [] ∧
    entryCheck mulReady.cfg 0#4 mulReady.block.args = .none ∧
    (commandRequests mulReady.cfg .multiply mulReady.block.args).all (admits mulReady.cfg) = true := by decide +kernel

/-- TransposeComputesTranspose: TRN-1. -/
theorem witness_transpose_run :
    trnReady.cfg.wf = true ∧ trnReady.mem.wf = true ∧ trnReady.block.status.busy = false ∧ trnReady.schedule = [] ∧
    entryCheck trnReady.cfg 1#4 trnReady.block.args = .none ∧
    (commandRequests trnReady.cfg .transpose trnReady.block.args).all (admits trnReady.cfg) = true := by decide +kernel

/-- HiddenStateDoesNotLeak: a second block with the same arguments and other registers, a second memory that differs
outside the input regions, and both runs answer. -/
theorem witness_hidden_state :
    ({ mulReady.block with outWord := 0xAAAAAAAA#32, i := 7, op := 3 } : Block Config.mini).args = mulReady.block.args ∧
    (Mem.writeByte mulMem 0x300 9#8).wf = true ∧
    (inputRegions Config.mini 0#4 mulReady.block.args).all (fun r => (List.range r.len).all fun k =>
      (Mem.writeByte mulMem 0x300 9#8).readByte (r.base + k) == mulMem.readByte (r.base + k)) = true ∧
    nextIs (runCommand .multiply mulReady) (fun _ => true) = true ∧
    nextIs (runCommand .multiply
      { mulReady with
        block := ({ mulReady.block with outWord := 0xAAAAAAAA#32, i := 7, op := 3 } : Block Config.mini)
        mem := Mem.writeByte mulMem 0x300 9#8 })
      (fun _ => true) = true := by decide +kernel

/-- The block of TransposeThenMultiplyIsProduct's second command: in1 = 0x300, in2 = 0x200, out = 0x400, n = 1. -/
def secondBlock : Block Config.mini := argsBlock 0x300 0x200 0x400 1 4 4

/-- TransposeThenMultiplyIsProduct: TRN-1 followed by a MULTIPLY on its destination; every stage answers. -/
theorem witness_transpose_then_multiply :
    secondBlock.status.busy = false ∧ entryCheck Config.mini 0#4 secondBlock.args = .none ∧
    (commandRequests Config.mini .multiply secondBlock.args).all (admits Config.mini) = true ∧
    trnReady.block.args.d0 = secondBlock.args.d1 ∧ trnReady.block.args.d1 = secondBlock.args.d2 ∧
    secondBlock.args.a1 = trnReady.block.args.a2 ∧
    overlaps (wordRegion Config.mini secondBlock.args.a0 secondBlock.args.d0)
      (outputRegion Config.mini 1#4 trnReady.block.args) = false ∧
    nextIs (runCommand .transpose trnReady) (fun t =>
      nextIs (runCommand .multiply { trnReady with block := secondBlock, mem := t.mem }) (fun _ => true)) = true ∧
    (match decodeStream Config.mini (memWords Config.mini trnReady.mem 0x300 1) 1 4 with
      | .ok _ => true | .error _ => false) = true ∧
    (match decodeStream Config.mini (memWords Config.mini trnReady.mem 0x100 4) 4 4 with
      | .ok _ => true | .error _ => false) = true := by decide +kernel

/-- RunInvariantAtReset and RunInvariantKept, RequestsAlignedAndInRange: the armed MUL-1 machine meets the run
invariant, and its step answers. -/
theorem witness_run_invariant : RunOk (midRun .mulInit) ∧ (step (midRun .mulInit) = .next (blockTurn (midRun .mulInit))) := by
  refine ⟨⟨by decide, by decide +kernel, witness_status_ok.2, ?_, ?_, ?_⟩, rfl⟩
  · exact ⟨fun h => (nomatch h), fun h => (nomatch h)⟩
  · exact ⟨fun _ => by decide +kernel, fun _ _ => by decide +kernel, fun _ h => absurd rfl h, fun h => (nomatch h),
      fun h => (nomatch h)⟩
  · exact fun _ _ _ => ⟨fun h => (nomatch h), fun h => (nomatch h), fun h => (nomatch h), fun h => (nomatch h),
      fun h => (nomatch h), fun h => (nomatch h)⟩

/-- The same in the middle of a row, where the double-buffer clauses speak: column 0 of row 0 of MUL-1. -/
theorem witness_run_invariant_in_column : MulProgress (midRun .mulCol) := by
  refine ⟨fun _ => by decide +kernel, fun _ _ h => absurd h (by decide +kernel), fun _ => by decide +kernel,
    fun _ x hx => absurd hx (Nat.not_lt_zero x), fun h => (nomatch h), fun _ r hr => absurd hr (Nat.not_lt_zero r)⟩

/-- SequencerMatchesBusy and IdleBlockWaitsForStart: reset meets the premise, its step answers, and a START write takes
a ready block out of IDLE. -/
theorem witness_sequencer :
    sequencerOk State.reset.block ∧ (step State.reset = .next State.reset) ∧ State.reset.block.fsm = .idle ∧
    nextIs (hostTurn { mulReady with program := launchLines 0#4 }) (fun t => t.block.fsm != .idle) = true :=
  ⟨by simp [sequencerOk, State.reset, State.resetOf, Block.reset], rfl, rfl, by decide +kernel⟩

/-- ResetAbortsCommand: BUSY with a byte in the output region and one outside; and idle. -/
theorem witness_reset :
    (midRun .mulCol).mem.wf = true ∧ (midRun .mulCol).block.status.busy = true ∧
    inRegion (runningOutput (midRun .mulCol)) 0x303 = true ∧ inRegion (runningOutput (midRun .mulCol)) 0x304 = false ∧
    State.reset.block.status.busy = false := by decide +kernel

/-- BrokenDutyGivesAnyValue: a write that meets an input region, and the tainted last steps. -/
theorem witness_broken_duty :
    0x100 + [1#8].length ≤ 2 ^ (midRun .mulCol).cfg.addrWidth ∧
    (runningInputs (midRun .mulCol)).head? = some ⟨0x100, 4⟩ ∧ overlaps ⟨0x103, 1⟩ ⟨0x100, 4⟩ = true ∧
    overlaps ⟨0x104, 1⟩ ⟨0x100, 4⟩ = false ∧
    ((midRun .mulFlush).setTainted true).tainted = true ∧
    admits Config.mini (.write (cWordAddr Config.mini (midBlock .mulFlush).args (midBlock .mulFlush).i.toNat)) = true ∧
    admits Config.mini (trnRequest trnReady.block) = true := by decide +kernel

/-- BrokenDutyGivesAnyValue: a write whose last byte is the output region's first, and one whose first is its last; the
one byte written before the region is outside it. -/
theorem witness_output_written :
    (midRun .mulCol).block.status.busy = true ∧ (midRun .mulCol).mem.wf = true ∧
    runningOutput (midRun .mulCol) = ⟨0x300, 4⟩ ∧ 0x303 + [1#8, 2#8].length ≤ 2 ^ (midRun .mulCol).cfg.addrWidth ∧
    overlaps ⟨0x2FF, [1#8, 2#8].length⟩ (runningOutput (midRun .mulCol)) = true ∧
    overlaps ⟨0x303, [1#8, 2#8].length⟩ (runningOutput (midRun .mulCol)) = true ∧
    inRegion (runningOutput (midRun .mulCol)) 0x2FF = false ∧ inRegion (runningOutput (midRun .mulCol)) 0x300 = true ∧
    nextIs (hostWrite 0x2FF [1#8, 2#8] (midRun .mulCol)) (fun t => t.tainted) = true := by decide +kernel

/-- DutifulHostKeepsRegions and HostMemoryReadsBack: a dutiful write beside the regions, and an idle one. -/
theorem witness_host_memory :
    keepsDuty (midRun .mulCol) (.memWr 0x304 [1#8]) = true ∧ keepsDuty (midRun .mulCol) (.memWr 0x303 [1#8]) = false ∧
    nextIs (hostLine (.memWr 0x304 [1#8]) (midRun .mulCol)) (fun t => !t.tainted) = true ∧
    mulReady.mem.wf = true ∧ 0x304 + [1#8].length ≤ 2 ^ mulReady.cfg.addrWidth ∧
    2 ^ mulReady.cfg.addrWidth < 2 ^ 64 + [1#8].length := by decide +kernel

/-- The codec obligations: a lane and a bit inside MINI's words, and a matrix in and out of contract. -/
theorem witness_codec :
    (3 < Config.mini.lanes ∧ 7 < Config.mini.elemWidth) ∧ [1#8, 2#8, 3#8, 4#8].length = Config.mini.lanes ∧
    (⟨2, 2, [1#8, 2#8, 3#8, 4#8]⟩ : Matrix 8).wf = true ∧ 2 * 2 % Config.mini.lanes = 0 ∧
    [0x04030201#32].length = 2 * 2 / Config.mini.lanes ∧ 1 * 2 % Config.mini.lanes ≠ 0 ∧ Config.mini.lanes ≤ 4 := by decide

/-- SetargAndWaitLines: a host about to set each argument, and one about to wait. -/
theorem witness_host_lines :
    ({ State.reset with program := setargLines 0 0x100 } : State).program = setargLines 0 0x100 ++ [] ∧
    ({ State.reset with program := setargLines 2 0x100 } : State).schedule = [] ∧
    ({ State.reset with program := waitLines } : State).program = waitLines ++ [] := by decide

end Sys2Proof.Machine.Tests
end

/-!
### One block turn of a running command
-/

section
namespace Sys2Proof.Machine

/-! #### The micro-step as a function of memory and the block's registers -/

/-- The registers after one micro-step whose request is admitted. -/
def nextBlock {c : Config} (m : Mem) (b : Block c) : Block c :=
  match b.fsm with
  | .idle => b
  | .mulInit => mulInit m b
  | .mulRow => mulRow m b
  | .mulBload => mulBload m b
  | .mulCol => mulCol m b
  | .mulFlush => mulFlushBlock b
  | .trnRun => complete b

/-- A micro-step changes the block, memory and the count of free values, and nothing else. -/
theorem microStep_eq (s : State) :
    microStep s =
      { s with block := nextBlock s.mem s.block, mem := (microStep s).mem, fresh := (microStep s).fresh } := by
  cases hf : s.block.fsm <;> simp only [microStep, nextBlock, hf] <;> rfl

/-- A block turn whose request the platform admits: the micro-step, with its request on the bus. -/
theorem blockTurn_of_admitted {s : State} (h : ∀ r, nextRequest s.block = some r → admits s.cfg r = true) :
    blockTurn s =
      { s with
        block := nextBlock s.mem s.block, mem := (microStep s).mem, fresh := (microStep s).fresh
        trace := s.trace ++ (nextRequest s.block).toList } := by
  obtain ⟨hr, ht⟩ | ⟨r, hr, _, ht⟩ | ⟨r, hr, ha, _⟩ := blockTurn_cases s
  · rw [ht, microStep_eq, hr]
    simp
  · rw [ht, microStep_eq, hr]
    rfl
  · exact absurd (h r hr) (by simp [ha])

section
variable {c : Config} {m : Mem} {b : Block c}

theorem nextBlock_mulInit (h : b.fsm = .mulInit) : nextBlock m b = mulInit m b := by simp [nextBlock, h]
theorem nextBlock_mulRow (h : b.fsm = .mulRow) : nextBlock m b = mulRow m b := by simp [nextBlock, h]
theorem nextBlock_mulBload (h : b.fsm = .mulBload) : nextBlock m b = mulBload m b := by simp [nextBlock, h]
theorem nextBlock_mulCol (h : b.fsm = .mulCol) : nextBlock m b = mulCol m b := by simp [nextBlock, h]
theorem nextBlock_mulFlush (h : b.fsm = .mulFlush) : nextBlock m b = mulFlushBlock b := by simp [nextBlock, h]
theorem nextBlock_trnRun (h : b.fsm = .trnRun) : nextBlock m b = complete b := by simp [nextBlock, h]
theorem nextBlock_idle (h : b.fsm = .idle) : nextBlock m b = b := by simp [nextBlock, h]

/-- MUL_ROW prefetches only while another row follows, and in both cases clears the output word. -/
theorem mulRow_eq : mulRow m b =
    { b with
      aNext := if b.i.toNat + 1 < b.args.d0 then memWord c m (aWordAddr c b.args (b.i.toNat + 1)) else b.aNext
      outWord := 0, fsm := .mulBload } := by
  unfold mulRow
  split <;> rfl

theorem mulCol_of_more (h : b.j.toNat + 1 < b.args.d2) : mulCol m b =
    { b with
      bNext := memWord c m (bWordAddr c b.args (b.j.toNat + 1)), outWord := packColumn b
      bCur := memWord c m (bWordAddr c b.args (b.j.toNat + 1)), j := b.j + 1 } := if_pos h

theorem mulCol_of_last (h : ¬ b.j.toNat + 1 < b.args.d2) :
    mulCol m b = { b with outWord := packColumn b, fsm := .mulFlush } := if_neg h

theorem mulFlushBlock_of_more (h : b.i.toNat + 1 < b.args.d0) :
    mulFlushBlock b = { b with aCur := b.aNext, i := b.i + 1, fsm := .mulRow } := if_pos h

theorem mulFlushBlock_of_last (h : ¬ b.i.toNat + 1 < b.args.d0) : mulFlushBlock b = complete b := if_neg h

/-- Every micro-step keeps OP and the operands; it keeps STATUS and stays off IDLE and TRN_RUN, or it completes. -/
theorem nextBlock_frame (m : Mem) (b : Block c) (hb : b.fsm ≠ .idle) :
    (nextBlock m b).op = b.op ∧ (nextBlock m b).args = b.args ∧
    (((nextBlock m b).status = b.status ∧ (nextBlock m b).fsm ≠ .idle ∧ (nextBlock m b).fsm ≠ .trnRun ∧
        b.fsm ≠ .trnRun) ∨
      ((nextBlock m b).status = Status.completed ∧ (nextBlock m b).fsm = .idle)) := by
  cases hf : b.fsm with
  | idle => exact absurd hf hb
  | mulInit => rw [nextBlock_mulInit hf]; exact ⟨rfl, rfl, .inl ⟨rfl, nofun, nofun, nofun⟩⟩
  | mulRow => rw [nextBlock_mulRow hf, mulRow_eq]; exact ⟨rfl, rfl, .inl ⟨rfl, nofun, nofun, nofun⟩⟩
  | mulBload => rw [nextBlock_mulBload hf]; exact ⟨rfl, rfl, .inl ⟨rfl, nofun, nofun, nofun⟩⟩
  | mulCol =>
    rw [nextBlock_mulCol hf]
    by_cases hj : b.j.toNat + 1 < b.args.d2
    · rw [mulCol_of_more hj]; exact ⟨rfl, rfl, .inl ⟨rfl, by simp [hf], by simp [hf], nofun⟩⟩
    · rw [mulCol_of_last hj]; exact ⟨rfl, rfl, .inl ⟨rfl, nofun, nofun, nofun⟩⟩
  | mulFlush =>
    rw [nextBlock_mulFlush hf]
    by_cases hi : b.i.toNat + 1 < b.args.d0
    · rw [mulFlushBlock_of_more hi]; exact ⟨rfl, rfl, .inl ⟨rfl, nofun, nofun, nofun⟩⟩
    · rw [mulFlushBlock_of_last hi]; exact ⟨rfl, rfl, .inr ⟨rfl, rfl⟩⟩
  | trnRun => rw [nextBlock_trnRun hf]; exact ⟨rfl, rfl, .inr ⟨rfl, rfl⟩⟩

@[simp] theorem nextBlock_op (m : Mem) (b : Block c) : (nextBlock m b).op = b.op := by
  by_cases hf : b.fsm = .idle
  · rw [nextBlock_idle hf]
  · exact (nextBlock_frame m b hf).1

@[simp] theorem nextBlock_args (m : Mem) (b : Block c) : (nextBlock m b).args = b.args := by
  by_cases hf : b.fsm = .idle
  · rw [nextBlock_idle hf]
  · exact (nextBlock_frame m b hf).2.1

/-- A block turn keeps the configuration, OP and the operands. -/
theorem blockTurn_frame (s : State) :
    (blockTurn s).cfg = s.cfg ∧ (blockTurn s).block.op = s.block.op ∧ (blockTurn s).block.args = s.block.args := by
  obtain ⟨-, ht⟩ | ⟨r, -, -, ht⟩ | ⟨r, -, -, ht⟩ := blockTurn_cases s
  · rw [ht, microStep_eq]
    exact ⟨rfl, nextBlock_op _ _, nextBlock_args _ _⟩
  · rw [ht, microStep_eq]
    exact ⟨rfl, nextBlock_op _ _, nextBlock_args _ _⟩
  · rw [ht]
    exact ⟨rfl, rfl, rfl⟩

theorem iterate_blockTurn_frame (s : State) (k : Nat) :
    (blockTurn^[k] s).cfg = s.cfg ∧ (blockTurn^[k] s).block.op = s.block.op ∧
    (blockTurn^[k] s).block.args = s.block.args := by
  induction k with
  | zero => exact ⟨rfl, rfl, rfl⟩
  | succ k ih =>
    obtain ⟨hc, hop, hargs⟩ := blockTurn_frame (blockTurn^[k] s)
    obtain ⟨ihc, ihop, ihargs⟩ := ih
    rw [Function.iterate_succ_apply']
    exact ⟨hc.trans ihc, hop.trans ihop, hargs.trans ihargs⟩

/-- A counter that may still advance does so without wrapping, since its bound is a 32-bit register (10_state.md R36). -/
theorem toNat_succ_of_lt {x y : BitVec 32} (h : x.toNat + 1 < y.toNat) : (x + 1).toNat = x.toNat + 1 := by
  have hy := y.isLt
  rw [BitVec.toNat_add]
  exact Nat.mod_eq_of_lt (by simp; omega)

end

/-! #### What passed entry checks give (41_transpose.md R131, 42_multiply.md R151) -/

section
variable {c : Config} {g : Args}

theorem entryCheck_multiply (h : entryCheck c 0#4 g = .none) : 0 < g.d0 ∧ g.d1 = c.lanes ∧ g.d2 = c.lanes := by
  by_cases h0 : isPow2 g.d0 = false
  · simp [entryCheck, h0] at h
  by_cases h1 : g.d1 = c.lanes
  · by_cases h2 : g.d2 = c.lanes
    · exact ⟨isPow2_pos (by simpa using h0), h1, h2⟩
    · simp [entryCheck, h0, h1, h2] at h
  · simp [entryCheck, h0, h1] at h

theorem entryCheck_transpose (h : entryCheck c 1#4 g = .none) :
    0 < g.d0 ∧ 0 < g.d1 ∧ g.d0 * g.d1 % c.lanes = 0 := by
  by_cases h0 : isPow2 g.d0 = false
  · simp [entryCheck, h0] at h
  by_cases h1 : isPow2 g.d1 = false
  · simp [entryCheck, h0, h1] at h
  by_cases h2 : g.d0 * g.d1 % c.lanes = 0
  · exact ⟨isPow2_pos (by simpa using h0), isPow2_pos (by simpa using h1), h2⟩
  · simp [entryCheck, h0, h1, h2] at h

end

/-! #### The block of a running command -/

theorem entryCheck_op {c : Config} {op : BitVec 4} {g : Args} (h : entryCheck c op g = .none) :
    op = 0#4 ∨ op = 1#4 := by
  by_contra hop
  simp [entryCheck, not_or.mp hop] at h

/-- in2 word t when m = L: the words of in2 follow each other. -/
theorem bWordAddr_of_lanes {c : Config} {g : Args} (hc : c.wf = true) (hg : g.d1 = c.lanes) (t : Nat) :
    bWordAddr c g t = g.a1 + t * c.wordBytes := by
  rw [bWordAddr, hg, Nat.div_self (Config.lanes_pos hc), Nat.mul_one]

/-- The requests of every row t < n are requests of MULTIPLY (R158). -/
theorem mem_mulRequests_of_row {c : Config} {g : Args} {t : Nat} {r : Request} (ht : t < g.d0)
    (hr : r ∈ rowRequests c g t) : r ∈ mulRequests c g :=
  List.mem_cons_of_mem _ (List.mem_flatMap.mpr ⟨t, List.mem_range.mpr ht, hr⟩)

section
variable {c : Config} {b : Block c} (hc : c.wf = true) (hs : sequencerOk b) (hk : CommandOk c b)
include hs hk

/-- The block is BUSY outside IDLE, so its operands passed the entry checks. -/
theorem CommandOk.busy_checked (hf : b.fsm ≠ .idle) :
    b.status.busy = true ∧ entryCheck c b.op b.args = .none := by
  have hb : b.status.busy = true := by
    cases h : b.status.busy
    · exact absurd (hs.mpr h) hf
    · rfl
  exact ⟨hb, hk.checked hb⟩

/-- MULTIPLY's sequencer states belong to OP = 0, whose operands have n >= 1 and m = p = L. -/
theorem CommandOk.multiply_operands (hf : b.fsm ≠ .idle) (ht : b.fsm ≠ .trnRun) :
    b.op = 0#4 ∧ 0 < b.args.d0 ∧ b.args.d1 = c.lanes ∧ b.args.d2 = c.lanes := by
  obtain ⟨hb, he⟩ := hk.busy_checked hs hf
  have hop : b.op = 0#4 := by
    by_contra hop
    exact ht (hk.transpose_state hb hop)
  exact ⟨hop, entryCheck_multiply (hop ▸ he)⟩

/-- TRN_RUN does not belong to OP = 0. -/
theorem CommandOk.op_ne_zero_of_trnRun (hf : b.fsm = .trnRun) : b.op ≠ 0#4 := by
  intro hop
  exact hk.multiply_states (hk.busy_checked hs (by simp [hf])).1 hop hf

/-- A micro-step keeps `fsm = IDLE` exactly when BUSY = 0. -/
theorem nextBlock_sequencerOk (m : Mem) : sequencerOk (nextBlock m b) := by
  by_cases hf : b.fsm = .idle
  · rwa [nextBlock_idle hf]
  · obtain ⟨-, -, ⟨hst, hfsm, -⟩ | ⟨hst, hfsm⟩⟩ := nextBlock_frame m b hf
    · simp [sequencerOk, hst, hfsm, (hk.busy_checked hs hf).1]
    · simp [sequencerOk, hst, hfsm]

/-- A micro-step keeps the row counter below n while a row is computed. -/
theorem nextBlock_row_counter (m : Mem) (hr : inRow (nextBlock m b).fsm = true) :
    (nextBlock m b).i.toNat < b.args.d0 := by
  cases hf : b.fsm with
  | idle => simp [nextBlock_idle hf, hf, inRow] at hr
  | mulInit =>
    rw [nextBlock_mulInit hf]
    exact (hk.multiply_operands hs (by simp [hf]) (by simp [hf])).2.1
  | mulRow => rw [nextBlock_mulRow hf, mulRow_eq]; exact hk.row_counter (by rw [hf]; rfl)
  | mulBload => rw [nextBlock_mulBload hf]; exact hk.row_counter (by rw [hf]; rfl)
  | mulCol =>
    have hi := hk.row_counter (by rw [hf]; rfl)
    rw [nextBlock_mulCol hf]
    by_cases hj : b.j.toNat + 1 < b.args.d2
    · rw [mulCol_of_more hj]; exact hi
    · rw [mulCol_of_last hj]; exact hi
  | mulFlush =>
    rw [nextBlock_mulFlush hf] at hr ⊢
    by_cases hi : b.i.toNat + 1 < b.args.d0
    · rw [mulFlushBlock_of_more hi]
      exact (toNat_succ_of_lt hi).trans_lt hi
    · rw [mulFlushBlock_of_last hi] at hr
      nomatch hr
  | trnRun => rw [nextBlock_trnRun hf] at hr; nomatch hr

include hc

/-- A micro-step keeps the column counter below p in MUL_COL. -/
theorem nextBlock_column_counter (m : Mem) (hr : (nextBlock m b).fsm = .mulCol) :
    (nextBlock m b).j.toNat < b.args.d2 := by
  cases hf : b.fsm with
  | idle => simp [nextBlock_idle hf, hf] at hr
  | mulInit => rw [nextBlock_mulInit hf] at hr; nomatch hr
  | mulRow => rw [nextBlock_mulRow hf, mulRow_eq] at hr; nomatch hr
  | mulBload =>
    obtain ⟨-, -, -, hd2⟩ := hk.multiply_operands hs (by simp [hf]) (by simp [hf])
    rw [nextBlock_mulBload hf, hd2]
    exact Config.lanes_pos hc
  | mulCol =>
    rw [nextBlock_mulCol hf] at hr ⊢
    by_cases hj : b.j.toNat + 1 < b.args.d2
    · rw [mulCol_of_more hj]
      exact (toNat_succ_of_lt hj).trans_lt hj
    · rw [mulCol_of_last hj] at hr
      nomatch hr
  | mulFlush =>
    rw [nextBlock_mulFlush hf] at hr
    by_cases hi : b.i.toNat + 1 < b.args.d0
    · rw [mulFlushBlock_of_more hi] at hr; nomatch hr
    · rw [mulFlushBlock_of_last hi] at hr; nomatch hr
  | trnRun => rw [nextBlock_trnRun hf] at hr; nomatch hr

/-- A micro-step keeps the running command consistent. -/
theorem nextBlock_commandOk (m : Mem) : CommandOk c (nextBlock m b) := by
  by_cases hf : b.fsm = .idle
  · rwa [nextBlock_idle hf]
  have hi := nextBlock_row_counter hs hk m
  have hj := nextBlock_column_counter hc hs hk m
  obtain ⟨hop, hargs, hst⟩ := nextBlock_frame m b hf
  rw [← hargs] at hi hj
  obtain ⟨hst, -, hne, hne'⟩ | ⟨hst, -⟩ := hst
  · refine ⟨fun _ => ?_, fun _ _ => hne, fun hb hop' => ?_, hi, hj⟩
    · rw [hop, hargs]
      exact (hk.busy_checked hs hf).2
    · exact absurd (hk.transpose_state (by rwa [← hst]) (by rwa [← hop])) hne'
  · have hb : (nextBlock m b).status.busy ≠ true := by simp [hst]
    exact ⟨fun h => absurd h hb, fun h => absurd h hb, fun h => absurd h hb, hi, hj⟩

/-- Every request of a running command is one of the command's requests. -/
theorem nextRequest_mem {i : Instr} (hop : b.op = i.op) {r : Request} (hr : nextRequest b = some r) :
    r ∈ commandRequests c i b.args := by
  by_cases ht : b.fsm = .trnRun
  · cases i with
    | multiply => exact absurd hop (hk.op_ne_zero_of_trnRun hs ht)
    | transpose =>
      simp only [nextRequest, ht, if_true, Option.some.injEq] at hr
      simp [commandRequests, ← hr, trnRequest]
  have hf : b.fsm ≠ .idle := by
    intro hf
    simp [nextRequest, mulRequest, hf] at hr
  obtain ⟨hop0, hn, hm, hp⟩ := hk.multiply_operands hs hf ht
  cases i with
  | transpose => exact absurd (hop.symm.trans hop0) (by decide)
  | multiply =>
    cases hfs : b.fsm with
    | idle => exact absurd hfs hf
    | trnRun => exact absurd hfs ht
    | mulInit =>
      obtain rfl : .read b.args.a0 = r := by simpa [nextRequest, mulRequest, hfs, aWordAddr] using hr
      exact List.mem_cons_self
    | mulRow =>
      simp only [nextRequest, mulRequest, hfs, reduceCtorEq, if_false, Option.ite_none_right_eq_some,
        Option.some.injEq] at hr
      obtain ⟨hi, rfl⟩ := hr
      exact mem_mulRequests_of_row (t := b.i.toNat) (by omega) (by simp [rowRequests, hi, aWordAddr])
    | mulBload =>
      obtain rfl : .read b.args.a1 = r := by simpa [nextRequest, mulRequest, hfs, bWordAddr] using hr
      exact mem_mulRequests_of_row hn (by simp [rowRequests])
    | mulCol =>
      simp only [nextRequest, mulRequest, hfs, reduceCtorEq, if_false, Option.ite_none_right_eq_some,
        Option.some.injEq, bWordAddr_of_lanes hc hm] at hr
      obtain ⟨hj, rfl⟩ := hr
      have hmem : .read (b.args.a1 + (b.j.toNat + 1) * c.wordBytes) ∈ columnPrefetches c b.args :=
        List.mem_flatMap.mpr ⟨b.j.toNat, List.mem_range.mpr (by omega), by simp [hj]⟩
      exact mem_mulRequests_of_row hn (by simp [rowRequests, hmem])
    | mulFlush =>
      obtain rfl : .write (cWordAddr c b.args b.i.toNat) = r := by simpa [nextRequest, mulRequest, hfs] using hr
      exact mem_mulRequests_of_row (hk.row_counter (by rw [hfs]; rfl)) (by simp [rowRequests, cWordAddr])

end

/-! #### How many steps a running command still has -/

/-- MULTIPLY's block steps from row i, column j and a sequencer state on (R158); TRN_RUN is one step. -/
def stepsFrom (g : Args) (i j : Nat) : Fsm → Nat
  | .idle => 0
  | .mulInit => mulSteps g
  | .mulRow => (g.d0 - (i + 1)) * (g.d2 + 3) + (g.d2 + 3)
  | .mulBload => (g.d0 - (i + 1)) * (g.d2 + 3) + (g.d2 + 2)
  | .mulCol => (g.d0 - (i + 1)) * (g.d2 + 3) + (g.d2 - j + 1)
  | .mulFlush => (g.d0 - (i + 1)) * (g.d2 + 3) + 1
  | .trnRun => 1

/-- The block steps left of the running command. -/
def stepsLeft {c : Config} (b : Block c) : Nat := stepsFrom b.args b.i.toNat b.j.toNat b.fsm

section
variable {g : Args} {i j : Nat}

theorem stepsFrom_mulInit (hn : 0 < g.d0) : stepsFrom g 0 j .mulRow + 1 = stepsFrom g i j .mulInit := by
  obtain ⟨n, hn⟩ := Nat.exists_eq_succ_of_ne_zero hn.ne'
  simp only [stepsFrom, mulSteps, hn, Nat.succ_mul, Nat.zero_add, Nat.succ_sub_one]
  omega

theorem stepsFrom_mulCol_of_more (hj : j + 1 < g.d2) : stepsFrom g i (j + 1) .mulCol + 1 = stepsFrom g i j .mulCol := by
  simp only [stepsFrom]
  omega

theorem stepsFrom_mulCol_of_last (hj : j + 1 = g.d2) : stepsFrom g i j .mulFlush + 1 = stepsFrom g i j .mulCol := by
  simp only [stepsFrom]
  omega

theorem stepsFrom_mulFlush_of_more (hi : i + 1 < g.d0) :
    stepsFrom g (i + 1) j .mulRow + 1 = stepsFrom g i j .mulFlush := by
  obtain ⟨k, hk⟩ : ∃ k, g.d0 - (i + 1) = k + 1 := ⟨g.d0 - (i + 2), by omega⟩
  have hk' : g.d0 - (i + 1 + 1) = k := by omega
  simp only [stepsFrom, hk, hk', Nat.succ_mul]

theorem stepsFrom_mulFlush_of_last (hi : i + 1 = g.d0) : stepsFrom g i j .mulFlush = 1 := by
  simp [stepsFrom, hi]

end

theorem idle_of_stepsLeft_eq_zero {c : Config} {b : Block c} (h : stepsLeft b = 0) : b.fsm = .idle := by
  cases hf : b.fsm <;> simp [stepsLeft, stepsFrom, mulSteps, hf] at h ⊢

/-- A micro-step is one of the steps left. -/
theorem stepsLeft_nextBlock {c : Config} {b : Block c} (hs : sequencerOk b) (hk : CommandOk c b) (m : Mem)
    (hne : b.fsm ≠ .idle) : stepsLeft (nextBlock m b) + 1 = stepsLeft b := by
  obtain ⟨-, hargs, -⟩ := nextBlock_frame m b hne
  rw [stepsLeft, stepsLeft, hargs]
  cases hf : b.fsm with
  | idle => exact absurd hf hne
  | mulInit =>
    obtain ⟨-, hn, -, -⟩ := hk.multiply_operands hs (by simp [hf]) (by simp [hf])
    rw [nextBlock_mulInit hf]
    exact stepsFrom_mulInit hn
  | mulRow => rw [nextBlock_mulRow hf, mulRow_eq]; rfl
  | mulBload => rw [nextBlock_mulBload hf]; rfl
  | mulCol =>
    have hj := hk.column_counter hf
    rw [nextBlock_mulCol hf]
    by_cases hlt : b.j.toNat + 1 < b.args.d2
    · have hstep := stepsFrom_mulCol_of_more (i := b.i.toNat) hlt
      rw [mulCol_of_more hlt, ← hstep, ← toNat_succ_of_lt hlt, hf]
    · have hstep := stepsFrom_mulCol_of_last (i := b.i.toNat) (show b.j.toNat + 1 = b.args.d2 by omega)
      rw [mulCol_of_last hlt, ← hstep]
  | mulFlush =>
    have hi := hk.row_counter (by rw [hf]; rfl)
    rw [nextBlock_mulFlush hf]
    by_cases hlt : b.i.toNat + 1 < b.args.d0
    · have hstep := stepsFrom_mulFlush_of_more (j := b.j.toNat) hlt
      rw [mulFlushBlock_of_more hlt, ← hstep, ← toNat_succ_of_lt hlt]
    · rw [mulFlushBlock_of_last hlt, stepsFrom_mulFlush_of_last (by omega)]
      rfl
  | trnRun => rw [nextBlock_trnRun hf]; rfl

/-! #### An undisturbed run -/

/-- The command `i` runs undisturbed: the turns are the block's, and the platform admits every request. -/
structure Launched (i : Instr) (s : State) : Prop where
  config : s.cfg.wf = true
  schedule : s.schedule = []
  sequencer : sequencerOk s.block
  command : CommandOk s.cfg s.block
  op : s.block.op = i.op
  admitted : (commandRequests s.cfg i s.block.args).all (admits s.cfg) = true

section
variable {i : Instr} {s : State}

theorem Launched.nextRequest_admitted (h : Launched i s) {r : Request} (hr : nextRequest s.block = some r) :
    admits s.cfg r = true :=
  List.all_eq_true.mp h.admitted r (nextRequest_mem h.config h.sequencer h.command h.op hr)

theorem Launched.blockTurn_eq (h : Launched i s) :
    blockTurn s =
      { s with
        block := nextBlock s.mem s.block, mem := (microStep s).mem, fresh := (microStep s).fresh
        trace := s.trace ++ (nextRequest s.block).toList } :=
  blockTurn_of_admitted fun _ hr => h.nextRequest_admitted hr

theorem Launched.step_eq (h : Launched i s) (hf : s.block.fsm ≠ .idle) : step s = .next (blockTurn s) := by
  simp [step, h.schedule, unscheduledTurn, (h.command.busy_checked h.sequencer hf).1, turn]

theorem Launched.blockTurn (h : Launched i s) : Launched i (blockTurn s) := by
  by_cases hf : s.block.fsm = .idle
  · rwa [blockTurn_idle hf]
  obtain ⟨hop, hargs, -⟩ := nextBlock_frame s.mem s.block hf
  rw [h.blockTurn_eq]
  exact
    { config := h.config
      schedule := h.schedule
      sequencer := nextBlock_sequencerOk h.sequencer h.command s.mem
      command := nextBlock_commandOk h.config h.sequencer h.command s.mem
      op := hop.trans h.op
      admitted := by rw [hargs]; exact h.admitted }

theorem Launched.stepsLeft_blockTurn (h : Launched i s) (hf : s.block.fsm ≠ .idle) :
    stepsLeft (Machine.blockTurn s).block + 1 = stepsLeft s.block := by
  rw [h.blockTurn_eq]
  exact stepsLeft_nextBlock h.sequencer h.command s.mem hf

/-- The steps left are block turns, and the last one ends in IDLE. -/
theorem Launched.run_stepsLeft {k : Nat} (h : Launched i s) (hk : stepsLeft s.block = k) :
    Sys2Proof.core.run k s = .next (Machine.blockTurn^[k] s) ∧ (Machine.blockTurn^[k] s).block.fsm = .idle := by
  induction k generalizing s with
  | zero => exact ⟨rfl, idle_of_stepsLeft_eq_zero hk⟩
  | succ k ih =>
    have hf : s.block.fsm ≠ .idle := fun hf => by simp [stepsLeft, stepsFrom, hf] at hk
    have hk' := h.stepsLeft_blockTurn hf
    obtain ⟨hrun, hidle⟩ := ih h.blockTurn (by omega)
    rw [Function.iterate_succ_apply]
    refine ⟨?_, hidle⟩
    rw [← hrun]
    simp [Host.Core.run, Sys2Proof.core, h.step_eq hf]

end

/-! #### A launch whose checks pass -/

/-- The sequencer state a launch arms (45_control_port.md R192). -/
def firstState : Instr → Fsm
  | .multiply => .mulInit
  | .transpose => .trnRun

theorem startCommand_eq_armed {i : Instr} {s : State} (hb : s.block.status.busy = false)
    (he : entryCheck s.cfg i.op s.block.args = .none) : startCommand i.op s = armed i.op (firstState i) s := by
  rw [startCommand_idle hb]
  obtain ⟨-, hl⟩ | ⟨hne, -⟩ := launch_cases i.op s.block
  · rw [hl]
    cases i <;> rfl
  · exact absurd he hne

/-- A command that passes its checks is in an undisturbed run after the launch, all its steps left. -/
theorem launched_armed {i : Instr} {s : State} (hc : s.cfg.wf = true) (hq : s.schedule = [])
    (he : entryCheck s.cfg i.op s.block.args = .none)
    (ha : (commandRequests s.cfg i s.block.args).all (admits s.cfg) = true) :
    Launched i (armed i.op (firstState i) s) ∧
      stepsLeft (armed i.op (firstState i) s).block = commandSteps i s.block.args := by
  have hcmd : CommandOk s.cfg (armed i.op (firstState i) s).block := by
    cases i with
    | multiply => exact ⟨fun _ => he, fun _ _ => nofun, fun _ h => absurd rfl h, nofun, nofun⟩
    | transpose => exact ⟨fun _ => he, fun _ h => absurd h (show ¬ (1#4 = 0#4) by decide), fun _ _ => rfl, nofun, nofun⟩
  cases i with
  | multiply => exact ⟨⟨hc, hq, ⟨nofun, nofun⟩, hcmd, rfl, ha⟩, rfl⟩
  | transpose => exact ⟨⟨hc, hq, ⟨nofun, nofun⟩, hcmd, rfl, ha⟩, rfl⟩

/-- A launched command whose requests are admitted runs its steps as block turns and ends in IDLE. -/
theorem runCommand_eq {i : Instr} {s : State} (hc : s.cfg.wf = true) (hq : s.schedule = [])
    (hb : s.block.status.busy = false) (he : entryCheck s.cfg i.op s.block.args = .none)
    (ha : (commandRequests s.cfg i s.block.args).all (admits s.cfg) = true) :
    runCommand i s = .next (blockTurn^[commandSteps i s.block.args] (armed i.op (firstState i) s)) ∧
      (blockTurn^[commandSteps i s.block.args] (armed i.op (firstState i) s)).block.fsm = .idle := by
  obtain ⟨hl, hk⟩ := launched_armed hc hq he ha
  rw [runCommand, exec_eq, startCommand_eq_armed hb he]
  exact hl.run_stepsLeft hk

/-!
### Two runs that agree on operands and inputs (10_state.md R40)

Both machines take the same block turns. `SameSoFar` is what each turn keeps: the live registers, the ones the rest of
the run reads before it writes them, agree, and so do the input regions and the part of the output already written.
No live register is left from before the launch, and at IDLE the written part is the whole output region.
-/

/-! #### Memories that agree on a region -/

/-- Two memories hold the same bytes in a region. -/
def AgreeOn (r : Region) (m m' : Mem) : Prop := ∀ y, inRegion r y = true → m'.readByte y = m.readByte y

theorem inRegion_wordRegion {c : Config} {a n y : Nat} :
    inRegion (wordRegion c a n) y = true ↔ a ≤ y ∧ y < a + n * c.wordBytes := by
  rw [inRegion, Bool.and_eq_true, decide_eq_true_eq, decide_eq_true_eq]
  rfl

/-- A region of n+1 words is one of n words and the word after it. -/
theorem inRegion_wordRegion_succ {c : Config} {a n y : Nat} (h : inRegion (wordRegion c a (n + 1)) y = true) :
    inRegion (wordRegion c (a + n * c.wordBytes) 1) y = true ∨ inRegion (wordRegion c a n) y = true := by
  simp only [inRegion_wordRegion, Nat.succ_mul] at h ⊢
  omega

section
variable {c : Config} {m m' : Mem}

theorem agreeOn_empty (a : Nat) : AgreeOn (wordRegion c a 0) m m' := by
  intro y hy
  rw [inRegion_wordRegion] at hy
  omega

/-- The word `t` of a region the memories agree on. -/
theorem AgreeOn.memWord {a n : Nat} (h : AgreeOn (wordRegion c a n) m m') {t : Nat} (ht : t < n) :
    memWord c m' (a + t * c.wordBytes) = memWord c m (a + t * c.wordBytes) := by
  have hle : (t + 1) * c.wordBytes ≤ n * c.wordBytes := Nat.mul_le_mul_right _ ht
  rw [Nat.succ_mul] at hle
  exact memWord_congr fun x h1 h2 => h x (inRegion_wordRegion.mpr (by omega))

/-- After one stream is written to both, the memories agree on it and wherever they agreed before. -/
theorem readByte_setMemWords_eq (hm : m.wf = true) (hm' : m'.wf = true) {a y : Nat} {vs : List (BitVec c.dataWidth)}
    (h : inRegion (wordRegion c a vs.length) y = true ∨ m'.readByte y = m.readByte y) :
    (setMemWords c m' a vs).readByte y = (setMemWords c m a vs).readByte y := by
  induction vs generalizing m m' a with
  | nil => exact h.elim (fun hy => agreeOn_empty a y hy) id
  | cons v vs ih =>
    refine ih (setMemWord_wf hm a v) (setMemWord_wf hm' a v) ?_
    rw [readByte_setMemWord hm, readByte_setMemWord hm']
    by_cases hy : a ≤ y ∧ y < a + c.wordBytes
    · simp [hy]
    · simp only [if_neg hy]
      refine h.imp_left fun h => ?_
      rw [inRegion_wordRegion, List.length_cons, Nat.succ_mul] at h
      exact inRegion_wordRegion.mpr (by omega)

end

/-! #### What the two runs share -/

/-- The registers the rest of the run still reads before it writes them, by sequencer state (42_multiply.md R163). -/
def SameLive {c : Config} (b b' : Block c) : Prop :=
  match b.fsm with
  | .idle => True
  | .mulInit => True
  | .mulRow => b'.i = b.i ∧ b'.aCur = b.aCur
  | .mulBload =>
    b'.i = b.i ∧ b'.aCur = b.aCur ∧ (b.i.toNat + 1 < b.args.d0 → b'.aNext = b.aNext) ∧ b'.outWord = b.outWord
  | .mulCol =>
    b'.i = b.i ∧ b'.aCur = b.aCur ∧ (b.i.toNat + 1 < b.args.d0 → b'.aNext = b.aNext) ∧ b'.outWord = b.outWord ∧
      b'.j = b.j ∧ b'.bCur = b.bCur
  | .mulFlush => b'.i = b.i ∧ (b.i.toNat + 1 < b.args.d0 → b'.aNext = b.aNext) ∧ b'.outWord = b.outWord
  | .trnRun => True

/-- The part of the output region the running command has written. -/
def writtenRegion {c : Config} (b : Block c) : Region :=
  match b.fsm with
  | .idle => outputRegion c b.op b.args
  | .mulInit => wordRegion c b.args.a2 0
  | .mulRow => wordRegion c b.args.a2 b.i.toNat
  | .mulBload => wordRegion c b.args.a2 b.i.toNat
  | .mulCol => wordRegion c b.args.a2 b.i.toNat
  | .mulFlush => wordRegion c b.args.a2 b.i.toNat
  | .trnRun => wordRegion c b.args.a2 0

/-- Two runs of one command at the same point: they agree on what the rest of the run reads and on what it has written.
Nothing is said of any other register or byte. -/
structure SameSoFar {c : Config} (m m' : Mem) (b b' : Block c) : Prop where
  memory : m.wf = true
  memory' : m'.wf = true
  op : b'.op = b.op
  args : b'.args = b.args
  status : b'.status = b.status
  fsm : b'.fsm = b.fsm
  live : SameLive b b'
  inputs : ∀ r ∈ inputRegions c b.op b.args, AgreeOn r m m'
  written : AgreeOn (writtenRegion b) m m'

section
variable {c : Config} {m m' : Mem} {b b' : Block c} (h : SameSoFar m m' b b')
include h

theorem SameSoFar.aWord (hop : b.op = 0#4) {t : Nat} (ht : t < b.args.d0) :
    memWord c m' (aWordAddr c b.args t) = memWord c m (aWordAddr c b.args t) := by
  have hr : AgreeOn (wordRegion c b.args.a0 b.args.d0) m m' := h.inputs _ (by simp [inputRegions, hop])
  exact hr.memWord ht

theorem SameSoFar.bWord (hc : c.wf = true) (hop : b.op = 0#4) (hm : b.args.d1 = c.lanes) {t : Nat}
    (ht : t < b.args.d2) : memWord c m' (bWordAddr c b.args t) = memWord c m (bWordAddr c b.args t) := by
  have hr : AgreeOn (wordRegion c b.args.a1 b.args.d2) m m' :=
    h.inputs _ (by simp [inputRegions, hop, hm, Nat.div_self (Config.lanes_pos hc)])
  rw [bWordAddr_of_lanes hc hm]
  exact hr.memWord ht

/-- Both runs are about to make the same request. -/
theorem SameSoFar.nextRequest : nextRequest b' = nextRequest b := by
  have hl := h.live
  simp only [Machine.nextRequest, mulRequest, trnRequest, h.fsm, h.args]
  cases hf : b.fsm <;> simp only [SameLive, hf] at hl ⊢
  case mulRow =>
    obtain ⟨hi, -⟩ := hl
    rw [hi]
  case mulCol =>
    obtain ⟨-, -, -, -, hj, -⟩ := hl
    rw [hj]
  case mulFlush =>
    obtain ⟨hi, -⟩ := hl
    rw [hi]

/-- Both runs take the same branch, so OP, the operands, STATUS and the sequencer state stay the same. -/
theorem SameSoFar.control_nextBlock :
    (nextBlock m' b').op = (nextBlock m b).op ∧ (nextBlock m' b').args = (nextBlock m b).args ∧
    (nextBlock m' b').status = (nextBlock m b).status ∧ (nextBlock m' b').fsm = (nextBlock m b).fsm := by
  have hl := h.live
  have hf' := h.fsm
  have hargs := h.args
  cases hf : b.fsm with
  | idle => rw [nextBlock_idle hf, nextBlock_idle (hf'.trans hf)]; exact ⟨h.op, h.args, h.status, h.fsm⟩
  | mulInit => rw [nextBlock_mulInit hf, nextBlock_mulInit (hf'.trans hf)]; exact ⟨h.op, h.args, h.status, rfl⟩
  | mulRow =>
    rw [nextBlock_mulRow hf, nextBlock_mulRow (hf'.trans hf), mulRow_eq, mulRow_eq]
    exact ⟨h.op, h.args, h.status, rfl⟩
  | mulBload => rw [nextBlock_mulBload hf, nextBlock_mulBload (hf'.trans hf)]; exact ⟨h.op, h.args, h.status, rfl⟩
  | mulCol =>
    simp only [SameLive, hf] at hl
    obtain ⟨-, -, -, -, hj, -⟩ := hl
    rw [nextBlock_mulCol hf, nextBlock_mulCol (hf'.trans hf)]
    by_cases hlt : b.j.toNat + 1 < b.args.d2
    · rw [mulCol_of_more hlt, mulCol_of_more (by rwa [hj, hargs])]; exact ⟨h.op, h.args, h.status, h.fsm⟩
    · rw [mulCol_of_last hlt, mulCol_of_last (by rwa [hj, hargs])]; exact ⟨h.op, h.args, h.status, rfl⟩
  | mulFlush =>
    simp only [SameLive, hf] at hl
    obtain ⟨hi, -, -⟩ := hl
    rw [nextBlock_mulFlush hf, nextBlock_mulFlush (hf'.trans hf)]
    by_cases hlt : b.i.toNat + 1 < b.args.d0
    · rw [mulFlushBlock_of_more hlt, mulFlushBlock_of_more (by rwa [hi, hargs])]; exact ⟨h.op, h.args, h.status, rfl⟩
    · rw [mulFlushBlock_of_last hlt, mulFlushBlock_of_last (by rwa [hi, hargs])]; exact ⟨h.op, h.args, rfl, rfl⟩
  | trnRun => rw [nextBlock_trnRun hf, nextBlock_trnRun (hf'.trans hf)]; exact ⟨h.op, h.args, rfl, rfl⟩

end

/-! #### A micro-step of both runs -/

section
variable {c : Config} {m m' : Mem} {b b' : Block c} (hc : c.wf = true) (hs : sequencerOk b) (hk : CommandOk c b)
  (h : SameSoFar m m' b b')
include hc hs hk h

/-- The registers still to be read agree after a micro-step: each one it loads comes from an input word. -/
theorem SameSoFar.live_nextBlock : SameLive (nextBlock m b) (nextBlock m' b') := by
  have hl := h.live
  have hf' := h.fsm
  have hargs := h.args
  cases hf : b.fsm with
  | idle => simp [nextBlock_idle, hf, SameLive]
  | trnRun => simp [nextBlock_trnRun, hf, SameLive]
  | mulInit =>
    obtain ⟨hop, hn, -, -⟩ := hk.multiply_operands hs (by simp [hf]) (by simp [hf])
    rw [nextBlock_mulInit hf, nextBlock_mulInit (hf'.trans hf)]
    refine ⟨rfl, ?_⟩
    simp only [mulInit, hargs]
    exact h.aWord hop hn
  | mulRow =>
    obtain ⟨hop, -, -, -⟩ := hk.multiply_operands hs (by simp [hf]) (by simp [hf])
    simp only [SameLive, hf] at hl
    obtain ⟨hi, ha⟩ := hl
    rw [nextBlock_mulRow hf, nextBlock_mulRow (hf'.trans hf), mulRow_eq, mulRow_eq]
    refine ⟨hi, ha, fun hlt => ?_, rfl⟩
    replace hlt : b.i.toNat + 1 < b.args.d0 := hlt
    simp only [hi, hargs, if_pos hlt]
    exact h.aWord hop hlt
  | mulBload =>
    obtain ⟨hop, -, hm, hp⟩ := hk.multiply_operands hs (by simp [hf]) (by simp [hf])
    simp only [SameLive, hf] at hl
    obtain ⟨hi, ha, han, ho⟩ := hl
    rw [nextBlock_mulBload hf, nextBlock_mulBload (hf'.trans hf)]
    refine ⟨hi, ha, han, ho, rfl, ?_⟩
    simp only [mulBload, hargs]
    exact h.bWord hc hop hm (hp ▸ Config.lanes_pos hc)
  | mulCol =>
    obtain ⟨hop, -, hm, -⟩ := hk.multiply_operands hs (by simp [hf]) (by simp [hf])
    simp only [SameLive, hf] at hl
    obtain ⟨hi, ha, han, ho, hj, hb⟩ := hl
    have hpack : packColumn b' = packColumn b := by simp only [packColumn, ha, ho, hj, hb]
    rw [nextBlock_mulCol hf, nextBlock_mulCol (hf'.trans hf)]
    by_cases hlt : b.j.toNat + 1 < b.args.d2
    · rw [mulCol_of_more hlt, mulCol_of_more (by rwa [hj, hargs])]
      simp only [SameLive, hf, hj, hargs, h.bWord hc hop hm hlt, hpack, and_self]
      exact ⟨hi, ha, han, trivial⟩
    · rw [mulCol_of_last hlt, mulCol_of_last (by rwa [hj, hargs])]
      exact ⟨hi, han, hpack⟩
  | mulFlush =>
    simp only [SameLive, hf] at hl
    obtain ⟨hi, han, -⟩ := hl
    rw [nextBlock_mulFlush hf, nextBlock_mulFlush (hf'.trans hf)]
    by_cases hlt : b.i.toNat + 1 < b.args.d0
    · rw [mulFlushBlock_of_more hlt, mulFlushBlock_of_more (by rwa [hi, hargs])]
      exact ⟨congrArg (· + 1) hi, han hlt⟩
    · rw [mulFlushBlock_of_last hlt, mulFlushBlock_of_last (by rwa [hi, hargs])]
      trivial

end

/-! #### What TRN_RUN reads -/

/-- Element e of a stream, at an index inside it, comes from one of the stream's words. -/
theorem AgreeOn.memElem {c : Config} {m m' : Mem} {a n e : Nat} (h : AgreeOn (wordRegion c a n) m m')
    (he : e / c.lanes < n) : memElem c m' a e = memElem c m a e := by
  rw [Machine.memElem, h.memWord he, Machine.memElem]

/-- The source index of a destination element lies inside the source (R132). -/
theorem trnSource_lt {rows cols e : Nat} (hr : 0 < rows) (he : e < rows * cols) :
    trnSource rows cols e < rows * cols := by
  have h1 : e % rows + 1 ≤ rows := Nat.mod_lt e hr
  have h2 : e / rows < cols := Nat.div_lt_of_lt_mul he
  calc e % rows * cols + e / rows < (e % rows + 1) * cols := by rw [Nat.succ_mul]; omega
    _ ≤ rows * cols := Nat.mul_le_mul_right cols h1

theorem AgreeOn.trnWord {c : Config} {m m' : Mem} {g : Args} (he : entryCheck c 1#4 g = .none)
    (h : AgreeOn (wordRegion c g.a0 (trnWords c g)) m m') {t : Nat} (ht : t < trnWords c g) :
    trnWord c m' g t = trnWord c m g t := by
  obtain ⟨hr, -, hmod⟩ := entryCheck_transpose he
  have hsize : trnWords c g * c.lanes = g.d0 * g.d1 := Nat.div_mul_cancel (Nat.dvd_of_mod_eq_zero hmod)
  have hword : (t + 1) * c.lanes ≤ g.d0 * g.d1 := hsize ▸ Nat.mul_le_mul_right _ ht
  rw [Nat.succ_mul] at hword
  refine congrArg (pack c) (List.map_congr_left fun k hk => h.memElem ?_)
  have hk := List.mem_range.mp hk
  refine Nat.div_lt_of_lt_mul ?_
  rw [Nat.mul_comm c.lanes (trnWords c g), hsize]
  exact trnSource_lt hr (by omega)

/-! #### Memory after a micro-step of both runs -/

theorem microStep_mem_mulFlush {s : State} (hf : s.block.fsm = .mulFlush) :
    (microStep s).mem =
      setMemWord s.cfg s.mem (cWordAddr s.cfg s.block.args s.block.i.toNat) (flushWord s) := by
  simp only [microStep, hf]
  rfl

theorem microStep_mem_trnRun {s : State} (hf : s.block.fsm = .trnRun) :
    (microStep s).mem = setMemWords s.cfg s.mem s.block.args.a2 (trnOutput s) := by
  simp only [microStep, hf]
  rfl

/-- Only MUL_FLUSH and TRN_RUN write. -/
theorem microStep_mem_of_no_write {s : State} (h1 : s.block.fsm ≠ .mulFlush) (h2 : s.block.fsm ≠ .trnRun) :
    (microStep s).mem = s.mem := by
  cases hf : s.block.fsm with
  | mulFlush => exact absurd hf h1
  | trnRun => exact absurd hf h2
  | idle | mulInit | mulRow | mulBload | mulCol => simp [microStep, hf]

section
variable {c : Config} {m : Mem} {b : Block c}

theorem writtenRegion_nextBlock_mulFlush (hf : b.fsm = .mulFlush) (hop : b.op = 0#4) (hi : b.i.toNat < b.args.d0) :
    writtenRegion (nextBlock m b) = wordRegion c b.args.a2 (b.i.toNat + 1) := by
  rw [nextBlock_mulFlush hf]
  by_cases hlt : b.i.toNat + 1 < b.args.d0
  · rw [mulFlushBlock_of_more hlt, ← toNat_succ_of_lt hlt]
    rfl
  · rw [mulFlushBlock_of_last hlt, show b.i.toNat + 1 = b.args.d0 by omega]
    exact if_pos hop

theorem writtenRegion_nextBlock_trnRun (hf : b.fsm = .trnRun) (hop : b.op ≠ 0#4) :
    writtenRegion (nextBlock m b) = wordRegion c b.args.a2 (trnWords c b.args) := by
  rw [nextBlock_trnRun hf]
  exact if_neg hop

theorem writtenRegion_nextBlock_of_no_write (h1 : b.fsm ≠ .mulFlush) (h2 : b.fsm ≠ .trnRun) :
    writtenRegion (nextBlock m b) = writtenRegion b := by
  cases hf : b.fsm with
  | mulFlush => exact absurd hf h1
  | trnRun => exact absurd hf h2
  | idle => rw [nextBlock_idle hf]
  | mulInit => rw [nextBlock_mulInit hf]; simp only [writtenRegion, hf]; rfl
  | mulRow => rw [nextBlock_mulRow hf, mulRow_eq]; simp only [writtenRegion, hf]; rfl
  | mulBload => rw [nextBlock_mulBload hf]; simp only [writtenRegion, hf]; rfl
  | mulCol =>
    rw [nextBlock_mulCol hf]
    by_cases hlt : b.j.toNat + 1 < b.args.d2
    · rw [mulCol_of_more hlt]; simp only [writtenRegion, hf]; rfl
    · rw [mulCol_of_last hlt]; simp only [writtenRegion, hf]; rfl

end

theorem trnOutput_length (s : State) : (trnOutput s).length = trnWords s.cfg s.block.args := by
  simp [trnOutput]

theorem SameSoFar.flushWord {s : State} {m' : Mem} {b' : Block s.cfg} (h : SameSoFar s.mem m' s.block b')
    (hf : s.block.fsm = .mulFlush) :
    flushWord { s with block := b', mem := m' } = flushWord s := by
  have hl := h.live
  simp only [SameLive, hf] at hl
  obtain ⟨-, -, ho⟩ := hl
  simp only [Machine.flushWord, ho]

section
variable {s : State} {m' : Mem} {b' : Block s.cfg} (hc : s.cfg.wf = true) (hs : sequencerOk s.block)
  (hk : CommandOk s.cfg s.block) (h : SameSoFar s.mem m' s.block b')
include hs hk h

theorem SameSoFar.trnOutput (hf : s.block.fsm = .trnRun) :
    trnOutput { s with block := b', mem := m' } = trnOutput s := by
  have hop := hk.op_ne_zero_of_trnRun hs hf
  have he := (hk.busy_checked hs (by simp [hf])).2
  have hop : s.block.op = 1#4 := (entryCheck_op he).resolve_left hop
  have hin : AgreeOn (wordRegion s.cfg s.block.args.a0 (trnWords s.cfg s.block.args)) s.mem m' :=
    h.inputs _ (by simp [inputRegions, hop])
  simp only [Machine.trnOutput, h.args]
  refine List.map_congr_left fun t ht => ?_
  rw [hin.trnWord (hop ▸ he) (List.mem_range.mp ht)]

/-- Both runs write the same words to the same place, and these words are all that is new in the written region. -/
theorem SameSoFar.same_write :
    ∃ (a : Nat) (vs : List (BitVec s.cfg.dataWidth)),
      (microStep s).mem = setMemWords s.cfg s.mem a vs ∧
      (microStep { s with block := b', mem := m' }).mem = setMemWords s.cfg m' a vs ∧
      ∀ y, inRegion (writtenRegion (nextBlock s.mem s.block)) y = true →
        inRegion (wordRegion s.cfg a vs.length) y = true ∨ inRegion (writtenRegion s.block) y = true := by
  by_cases hfl : s.block.fsm = .mulFlush
  · obtain ⟨hop, -, -, -⟩ := hk.multiply_operands hs (by simp [hfl]) (by simp [hfl])
    have hi := hk.row_counter (by rw [hfl]; rfl)
    have hl := h.live
    simp only [SameLive, hfl] at hl
    obtain ⟨hsame, -⟩ := hl
    refine ⟨cWordAddr s.cfg s.block.args s.block.i.toNat, [Machine.flushWord s], microStep_mem_mulFlush hfl, ?_,
      fun y hy => ?_⟩
    · rw [microStep_mem_mulFlush (h.fsm.trans hfl), h.flushWord hfl]
      simp only [h.args, hsame]
      rfl
    · rw [writtenRegion_nextBlock_mulFlush hfl hop hi] at hy
      simp only [writtenRegion, hfl]
      exact inRegion_wordRegion_succ hy
  by_cases htr : s.block.fsm = .trnRun
  · refine ⟨s.block.args.a2, Machine.trnOutput s, microStep_mem_trnRun htr, ?_, fun y hy => .inl ?_⟩
    · rw [microStep_mem_trnRun (h.fsm.trans htr), h.trnOutput hs hk htr]
      simp only [h.args]
    · rwa [writtenRegion_nextBlock_trnRun htr (hk.op_ne_zero_of_trnRun hs htr), ← trnOutput_length] at hy
  · refine ⟨0, [], microStep_mem_of_no_write hfl htr, ?_, fun y hy => .inr ?_⟩
    · exact microStep_mem_of_no_write (by rwa [← h.fsm] at hfl) (by rwa [← h.fsm] at htr)
    · rwa [writtenRegion_nextBlock_of_no_write hfl htr] at hy

include hc

/-- A micro-step keeps two runs of one command alike. -/
theorem SameSoFar.microStep :
    SameSoFar (microStep s).mem (microStep { s with block := b', mem := m' }).mem (nextBlock s.mem s.block)
      (nextBlock m' b') := by
  obtain ⟨a, vs, hm, hm', hw⟩ := h.same_write hs hk
  obtain ⟨hop, hargs, hst, hfsm⟩ := h.control_nextBlock
  rw [hm, hm']
  exact
    { memory := setMemWords_wf h.memory a vs
      memory' := setMemWords_wf h.memory' a vs
      op := hop
      args := hargs
      status := hst
      fsm := hfsm
      live := h.live_nextBlock hc hs hk
      inputs := by
        rw [nextBlock_op, nextBlock_args]
        exact fun r hr y hy => readByte_setMemWords_eq h.memory h.memory' (.inr (h.inputs r hr y hy))
      written := fun y hy => readByte_setMemWords_eq h.memory h.memory' ((hw y hy).imp_right (h.written y)) }

end

/-! #### Whole runs of both machines -/

/-- Two machines that differ in the block's registers and memory alone, at the same point of one command. -/
inductive TwinRuns : State → State → Prop
  | of (s : State) (b' : Block s.cfg) (m' : Mem) (h : SameSoFar s.mem m' s.block b') :
      TwinRuns s { s with block := b', mem := m' }

/-- Equal memory writes use equally many free values. -/
theorem SameSoFar.fresh_microStep {s : State} {b' : Block s.cfg} {m' : Mem} (h : SameSoFar s.mem m' s.block b') :
    (Machine.microStep { s with block := b', mem := m' }).fresh = (Machine.microStep s).fresh := by
  have hf' := h.fsm
  cases hf : s.block.fsm <;>
    simp only [Machine.microStep, hf'.trans hf, hf, mulFlush, trnRun, h.args, State.setBlock_fresh, State.useFree_fresh,
      State.setMem_fresh]

theorem TwinRuns.blockTurn {i : Instr} {s s' : State} (hl : Launched i s) (h : TwinRuns s s') :
    TwinRuns (blockTurn s) (blockTurn s') := by
  obtain ⟨b', m', h⟩ := h
  have hadm : ∀ r, nextRequest b' = some r → admits s.cfg r = true :=
    fun r hr => hl.nextRequest_admitted (h.nextRequest ▸ hr)
  rw [hl.blockTurn_eq, blockTurn_of_admitted (s := { s with block := b', mem := m' }) hadm]
  simp only [h.nextRequest, h.fresh_microStep]
  exact .of _ _ _ (h.microStep hl.config hl.sequencer hl.command)

theorem Launched.iterate {i : Instr} {s : State} (hl : Launched i s) (k : Nat) : Launched i (Machine.blockTurn^[k] s) :=
  Function.Iterate.rec (Launched i) hl (fun _ h => h.blockTurn) k

theorem TwinRuns.iterate {i : Instr} {s s' : State} (hl : Launched i s) (h : TwinRuns s s') (k : Nat) :
    TwinRuns (Machine.blockTurn^[k] s) (Machine.blockTurn^[k] s') := by
  induction k with
  | zero => exact h
  | succ k ih =>
    rw [Function.iterate_succ_apply', Function.iterate_succ_apply']
    exact ih.blockTurn (hl.iterate k)

/-- At the end of the command both machines hold the same output bytes and STATUS and have made the same requests. -/
theorem TwinRuns.outputs_eq {t t' : State} (h : TwinRuns t t') (hf : t.block.fsm = .idle) :
    AgreeOn (outputRegion t.cfg t.block.op t.block.args) t.mem t'.mem ∧ t'.block.status = t.block.status ∧
    t'.trace = t.trace := by
  obtain ⟨b', m', h⟩ := h
  have hw := h.written
  simp only [writtenRegion, hf] at hw
  exact ⟨hw, h.status, rfl⟩

/-- Both launches start alike, whatever the registers and the rest of memory held before. -/
theorem twinRuns_armed {i : Instr} {s : State} {b' : Block s.cfg} {m' : Mem} (hm : s.mem.wf = true)
    (hm' : m'.wf = true) (hargs : b'.args = s.block.args)
    (hin : ∀ r ∈ inputRegions s.cfg i.op s.block.args, AgreeOn r s.mem m') :
    TwinRuns (armed i.op (firstState i) s) (armed i.op (firstState i) { s with block := b', mem := m' }) := by
  refine .of (armed i.op (firstState i) s) (armed i.op (firstState i) { s with block := b', mem := m' }).block m' ?_
  exact
    { memory := hm
      memory' := hm'
      op := rfl
      args := hargs
      status := rfl
      fsm := rfl
      live := by cases i <;> trivial
      inputs := hin
      written := by cases i <;> exact agreeOn_empty _ }

/-- Settles O35: both runs are the same number of block turns from launches that start alike, and each turn keeps the
registers still to be read and the output written so far the same. -/
theorem hiddenStateDoesNotLeak : Obligations.HiddenStateDoesNotLeak := by
  intro s t t' b' m' i _ hc hm hm' hq hb hb' hargs he ha hin ht ht'
  obtain ⟨hrun, hidle⟩ := runCommand_eq hc hq hb he ha
  obtain ⟨hrun', -⟩ := runCommand_eq (s := { s with block := b', mem := m' }) hc hq hb' (by rwa [hargs])
    (by rwa [hargs])
  rw [show Block.args (State.block { s with block := b', mem := m' }) = s.block.args from hargs] at hrun'
  obtain ⟨hl, -⟩ := launched_armed hc hq he ha
  obtain rfl := Host.Outcome.next.inj (hrun.symm.trans ht)
  obtain rfl := Host.Outcome.next.inj (hrun'.symm.trans ht')
  have htwin := (twinRuns_armed (i := i) hm hm' hargs hin).iterate hl (commandSteps i s.block.args)
  obtain ⟨hcfg, hop, hargs'⟩ := iterate_blockTurn_frame (armed i.op (firstState i) s) (commandSteps i s.block.args)
  obtain ⟨hout, hrest⟩ := htwin.outputs_eq hidle
  rw [hop, hargs', hcfg] at hout
  exact ⟨hout, hrest⟩

end Sys2Proof.Machine
end

/-!
### Regions (20_memory.md R60) and packed words (R52)
-/

section
namespace Sys2Proof.Machine

theorem inRegion_iff {r : Region} {a : Nat} : inRegion r a = true ↔ r.base ≤ a ∧ a < r.base + r.len := by
  simp [inRegion]

/-- The overlap check is R60's formula. -/
theorem overlaps_iff {r q : Region} :
    overlaps r q = true ↔ 0 < r.len ∧ 0 < q.len ∧ r.base < q.base + q.len ∧ q.base < r.base + r.len := by
  simp [overlaps, and_assoc]

/-- Two overlapping regions share the byte where the later one starts. -/
theorem overlaps_iff_sharesByte {r q : Region} : overlaps r q = true ↔ sharesByte r q := by
  simp only [overlaps_iff, sharesByte, inRegion_iff]
  constructor
  · rintro ⟨hr, hq, hrq, hqr⟩
    exact ⟨max r.base q.base, by omega, by omega⟩
  · rintro ⟨a, har, haq⟩
    omega

/-- Settles O50: the later of the two starts is the byte that overlapping regions share. -/
theorem overlapMeansSharedByte : Obligations.OverlapMeansSharedByte :=
  fun _ _ => ⟨overlaps_iff, overlaps_iff_sharesByte⟩

/-- The little-endian integer of `n` bytes, as R52 writes it. -/
theorem leNat_map_range (f : Nat → Byte) (n : Nat) :
    leNat ((List.range n).map f) = ((List.range n).map fun b => (f b).toNat * 2 ^ (8 * b)).sum := by
  induction n generalizing f with
  | zero => rfl
  | succ n ih =>
    have hshift (b : Nat) : (f (b + 1)).toNat * 2 ^ (8 * (b + 1)) = 256 * ((f (b + 1)).toNat * 2 ^ (8 * b)) := by
      rw [Nat.mul_succ, Nat.pow_add, ← Nat.mul_assoc, Nat.mul_comm]
    simp only [List.range_succ_eq_map, List.map_cons, List.map_map, leNat, List.sum_cons, Function.comp_def,
      Nat.succ_eq_add_one, hshift, List.sum_map_mul_left, ih fun b => f (b + 1), Nat.mul_zero, pow_zero, Nat.mul_one]

/-- The bytes of a packed word fill it exactly, so reading it cuts off nothing. -/
theorem memWord_toNat {c : Config} (hw : c.dataWidth = 8 * c.wordBytes) (m : Mem) (a : Nat) :
    (memWord c m a).toNat = leNat (m.readBytes a c.wordBytes) := by
  have hlt := leNat_lt (m.readBytes a c.wordBytes)
  rw [Mem.readBytes_length, ← hw] at hlt
  rw [memWord, BitVec.toNat_ofNat, Nat.mod_eq_of_lt hlt]

/-- Settles O51: a packed word is a whole number of bytes, so a read is their little-endian sum, and a byte read after
the write is one of the word's or unchanged. -/
theorem packedWordLittleEndian : Obligations.PackedWordLittleEndian := by
  intro c m a v hc hm
  have hw := Config.dataWidth_bytes hc
  refine ⟨?_, fun b hb => ?_, fun y hy => ?_, memWord_setMemWord hm hw a v⟩
  · rw [memWord_toNat hw, Mem.readBytes, leNat_map_range]
  · rw [readByte_setMemWord hm, if_pos (by omega), Nat.add_sub_cancel_left]
  · rw [readByte_setMemWord hm, if_neg (by omega)]

end Sys2Proof.Machine
end

/-!
### The command word (30_encoding.md R81 to R84)
-/

section
namespace Sys2Proof.Machine

/-! #### The decoder sees the START and OP fields only -/

theorem decode_of_fields_eq {v w : Reg} (hs : startField v = startField w) (ho : opField v = opField w) :
    decode v = decode w := by
  rw [decode, decode, hs, ho]

/-- The mask covers the START bit. -/
@[simp] theorem startField_and_decodeMask (v : Reg) : startField (v &&& decodeMask) = startField v := by
  simp [startField, decodeMask]

/-- The mask covers the whole OP field. -/
@[simp] theorem opField_and_decodeMask (v : Reg) : opField (v &&& decodeMask) = opField v := by
  have hm : decodeMask.extractLsb' 4 4 = BitVec.allOnes 4 := by decide
  rw [opField, BitVec.extractLsb'_and, hm, BitVec.and_allOnes, opField]

/-- R83: the mask keeps everything that decides. -/
theorem decode_and_decodeMask (v : Reg) : decode (v &&& decodeMask) = decode v :=
  decode_of_fields_eq (startField_and_decodeMask v) (opField_and_decodeMask v)

theorem decode_eq_of_masked_eq {v w : Reg} (h : v &&& decodeMask = w &&& decodeMask) : decode v = decode w := by
  rw [← decode_and_decodeMask v, h, decode_and_decodeMask]

/-- Flipping reserved bits leaves the masked word as it was. -/
theorem xor_and_decodeMask {r : Reg} (hr : r &&& decodeMask = 0#32) (v : Reg) :
    (v ^^^ r) &&& decodeMask = v &&& decodeMask := by
  have hd : (v ^^^ r) &&& decodeMask = (v &&& decodeMask) ^^^ (r &&& decodeMask) := by
    ext x
    simp [Bool.and_xor_distrib_right]
  rw [hd, hr, BitVec.xor_zero]

/-- R22: CTRL reads as OP in bits 7:4 and 0 elsewhere. -/
theorem ctrl_reserved_bits_zero {c : Config} (b : Block c) : portValue b 0x00 &&& 0xFFFFFF0F#32 = 0#32 := by
  have h : ∀ op : BitVec 4, (0#24 ++ op ++ 0#4) &&& 0xFFFFFF0F#32 = 0#32 := by decide
  exact h b.op

/-- Settles O2: the decoder sees a word only under the mask, which no reserved bit reaches. -/
theorem reservedBitsAreIgnored : Obligations.ReservedBitsAreIgnored :=
  ⟨fun v => (decode_and_decodeMask v).symm, fun v _ hr => decode_eq_of_masked_eq (xor_and_decodeMask hr v),
    fun _ b => ctrl_reserved_bits_zero b⟩

/-! #### The table of R82 -/

/-- A word that is `16 * k + 1` under the mask has START = 1 and OP = k. -/
theorem fields_of_masked {v : Reg} {k : Nat} (h : v &&& decodeMask = BitVec.ofNat 32 (16 * k + 1)) :
    startField v = true ∧ opField v = BitVec.ofNat 4 k := by
  rw [← startField_and_decodeMask v, ← opField_and_decodeMask v, h]
  constructor
  · have hodd : (16 * k + 1) % 2 = 1 := by omega
    rw [startField, BitVec.getLsbD_ofNat, Nat.testBit_zero, hodd]
    rfl
  · apply BitVec.eq_of_toNat_eq
    simp only [opField, BitVec.extractLsb'_toNat, BitVec.toNat_ofNat, Nat.shiftRight_eq_div_pow]
    omega

theorem decode_of_start {v : Reg} (h : startField v = true) :
    decode v =
      if opField v = 0#4 then .command .multiply
      else if opField v = 1#4 then .command .transpose
      else .reservedOp (opField v) := by
  rw [decode, if_pos h]

theorem decode_of_no_start {v : Reg} (h : startField v = false) : decode v = .noLaunch (opField v) := by
  simp [decode, h]

theorem decode_of_reserved_op {v : Reg} (h : startField v = true) (h0 : opField v ≠ 0#4) (h1 : opField v ≠ 1#4) :
    decode v = .reservedOp (opField v) := by
  rw [decode_of_start h, if_neg h0, if_neg h1]

/-! #### A write to CTRL, by the word's decoding (45_control_port.md R191, R192) -/

/-- An aligned 32-bit write at offset 0 is admitted and reaches CTRL. -/
theorem portWrite_ctrl (v : Reg) (s : State) : portWrite 0x00 32 v s = writeCtrl v s := rfl

theorem writeCtrl_of_reservedOp {v : Reg} {op : BitVec 4} (h : decode v = .reservedOp op) (s : State) :
    writeCtrl v s = .next (startCommand op s) := by
  rw [writeCtrl, h]

theorem writeCtrl_of_noLaunch {v : Reg} {op : BitVec 4} (h : decode v = .noLaunch op) (s : State) :
    writeCtrl v s = .next (if s.block.status.busy then s else s.setBlock { s.block with op := op }) := by
  rw [writeCtrl, h]

/-- The OP check of R231 comes before every other. -/
theorem entryCheck_of_reserved_op {op : BitVec 4} (h0 : op ≠ 0#4) (h1 : op ≠ 1#4) (c : Config) (g : Args) :
    entryCheck c op g = .op := if_pos ⟨h0, h1⟩

/-- R222: a launch of a reserved OP ends in the E_OP error. -/
theorem startCommand_of_reserved_op {op : BitVec 4} {s : State} (hb : s.block.status.busy = false) (h0 : op ≠ 0#4)
    (h1 : op ≠ 1#4) : startCommand op s = failedLaunch op 1 s := by
  have he := entryCheck_of_reserved_op h0 h1 s.cfg s.block.args
  obtain ⟨hn, -⟩ | ⟨-, hl⟩ := launch_cases op s.block
  · exact absurd (he.symm.trans hn) (by decide)
  · rw [startCommand_idle hb, hl, he]
    rfl

/-- Settles O1: the masked word fixes START and OP, the decoder's table gives the decoding, and the decoding gives the
write to CTRL. -/
theorem commandWordTable : Obligations.CommandWordTable := by
  intro v
  refine ⟨fun h => ?_, fun h => ?_, fun k hk hk' h => ?_, fun h s => ?_⟩
  · obtain ⟨hs, ho⟩ := fields_of_masked (k := 0) h
    rw [decode_of_start hs, ho, if_pos rfl]
  · obtain ⟨hs, ho⟩ := fields_of_masked (k := 1) h
    rw [decode_of_start hs, ho, if_neg (by decide), if_pos rfl]
  · obtain ⟨hs, ho⟩ := fields_of_masked h
    have h0 : BitVec.ofNat 4 k ≠ 0#4 := by bv_omega
    have h1 : BitVec.ofNat 4 k ≠ 1#4 := by bv_omega
    have hd : decode v = .reservedOp (BitVec.ofNat 4 k) := by
      rw [← ho] at h0 h1 ⊢
      exact decode_of_reserved_op hs h0 h1
    refine ⟨hd, fun s hb => ?_⟩
    rw [portWrite_ctrl, writeCtrl_of_reservedOp hd, startCommand_of_reserved_op hb h0 h1]
  · exact ⟨opField v, by rw [portWrite_ctrl, writeCtrl_of_noLaunch (decode_of_no_start h)]⟩

end Sys2Proof.Machine
end

/-!
### Lanes of a packed word, bit by bit (40_codec.md R110, R111)
-/

section
namespace Sys2Proof.Machine

section
variable {dw w : Nat}

/-- The bits of the lane just set are the element's. -/
theorem laneSet_bit_inside (v : BitVec dw) {k x : Nat} (e : BitVec w) (hk : w * k + w ≤ dw) (hx : x < w) :
    (laneSet v k e).getLsbD (w * k + x) = e.getLsbD x := by
  rw [← laneGet_bit _ _ _ hx, laneGet_laneSet_same v k e hk]

/-- Setting a lane leaves every bit outside it, those past the word's end included. -/
theorem laneSet_bit_outside (v : BitVec dw) {k x : Nat} (e : BitVec w) (hx : x < w * k ∨ w * k + w ≤ x) :
    (laneSet v k e).getLsbD x = v.getLsbD x := by
  by_cases hin : x < dw
  · rw [laneSet_bit v k e x hin, if_neg (by omega)]
  · rw [BitVec.getLsbD_of_ge _ _ (by omega), BitVec.getLsbD_of_ge _ _ (by omega)]

end

/-- Settles O52, by the bits of an extracted lane; the rule's example is evaluated. -/
theorem laneGetBits : Obligations.LaneGetBits :=
  ⟨fun _ v k x _ _ hx => laneGet_bit v k x hx, by decide⟩

/-- Settles O53: in a well-formed configuration every lane lies inside the word, so the lane set holds the element's bits
and the other lanes lie outside it. -/
theorem laneSetBits : Obligations.LaneSetBits := by
  refine ⟨fun c v k e hc hk => ⟨fun x hx => ?_, fun x hx => ?_, fun k' hk' hne => ?_⟩, by decide, by decide⟩
  · exact laneSet_bit_inside v e (Config.lane_inside hc hk) hx
  · exact laneSet_bit_outside v e hx
  · exact laneGet_laneSet_other v e (Config.lane_inside hc hk') hne.symm

end Sys2Proof.Machine
end

/-!
### TRANSPOSE as a whole (41_transpose.md R132)
-/

section
namespace Sys2Proof.Machine

/-! #### Packed streams in memory (40_codec.md R115, R116, R119) -/

/-- The matrix whose packed stream stands at `a` in memory (R119). -/
def memMatrix (c : Config) (m : Mem) (a rows cols : Nat) : Matrix c.elemWidth :=
  { rows := rows, cols := cols, flat := (List.range (rows * cols)).map (memElem c m a) }

/-- Element e of a list given index by index. -/
theorem getD_map_range {α : Type} (f : Nat → α) (d : α) {n e : Nat} (he : e < n) :
    ((List.range n).map f).getD e d = f e := by
  simp [he]

section
variable {c : Config} {m : Mem} {a : Nat}

theorem streamElem_memWords {nw e : Nat} (he : e / c.lanes < nw) :
    streamElem c (memWords c m a nw) e = memElem c m a e :=
  congrArg (laneGet c.elemWidth · (e % c.lanes)) (getD_map_range _ 0 he)

/-- The words of an R x K stream in memory decode to the matrix they hold. -/
theorem decodeStream_memWords (hl : 0 < c.lanes) {rows cols : Nat} (hmod : rows * cols % c.lanes = 0) :
    decodeStream c (memWords c m a (rows * cols / c.lanes)) rows cols = .ok (memMatrix c m a rows cols) := by
  have hlen : (memWords c m a (rows * cols / c.lanes)).length = rows * cols / c.lanes := by simp [memWords]
  rw [decodeStream, if_pos ⟨hmod, hlen⟩, memMatrix]
  congr 2
  refine List.map_congr_left fun e he => streamElem_memWords ?_
  rw [Nat.div_lt_iff_lt_mul hl, Nat.div_mul_cancel (Nat.dvd_of_mod_eq_zero hmod)]
  exact List.mem_range.mp he

/-- The words of a stream read back after it is written. -/
theorem memWords_setMemWords (hm : m.wf = true) (hw : c.dataWidth = 8 * c.wordBytes) (vs : List (BitVec c.dataWidth)) :
    memWords c (setMemWords c m a vs) a vs.length = vs := by
  refine List.ext_getElem (by simp [memWords]) fun t _ ht => ?_
  simp [memWords, memWord_setMemWords hm hw a vs t ht, ht]

/-- So do its elements. -/
theorem memElem_setMemWords (hm : m.wf = true) (hw : c.dataWidth = 8 * c.wordBytes) {vs : List (BitVec c.dataWidth)}
    {e : Nat} (he : e / c.lanes < vs.length) : memElem c (setMemWords c m a vs) a e = streamElem c vs e := by
  rw [← streamElem_memWords he, memWords_setMemWords hm hw]

end

/-! #### The elements of the destination stream -/

/-- Destination element j*rows + k comes from source element k*cols + j. -/
theorem trnSource_of_row {rows cols j k : Nat} (hk : k < rows) :
    trnSource rows cols (j * rows + k) = k * cols + j := by
  have hr : 0 < rows := Nat.zero_lt_of_lt hk
  rw [trnSource, Nat.mul_comm j rows, Nat.mul_add_mod, Nat.mod_eq_of_lt hk, Nat.mul_add_div hr, Nat.div_eq_of_lt hk,
    Nat.add_zero]

/-- The index of an element of row j lies inside the matrix. -/
theorem row_elem_lt {n rows j k : Nat} (hj : j < n) (hk : k < rows) : j * rows + k < rows * n :=
  calc j * rows + k < (j + 1) * rows := by rw [Nat.succ_mul]; omega
    _ ≤ n * rows := Nat.mul_le_mul_right rows hj
    _ = rows * n := Nat.mul_comm n rows

/-- Element e of the transpose is the source's element `trnSource e`. -/
theorem transposed_memMatrix_elem {c : Config} {m : Mem} {a rows cols e : Nat} (hr : 0 < rows)
    (he : e < rows * cols) :
    (memMatrix c m a rows cols).transposed.flat.getD e 0 = memElem c m a (trnSource rows cols e) := by
  rw [Matrix.transposed, Matrix.ofFn, getD_map_range _ _ (by rwa [memMatrix, Nat.mul_comm])]
  exact getD_map_range _ 0 (trnSource_lt hr he)

section
variable {c : Config} {m : Mem} {g : Args}

/-- The words TRN_RUN writes while the host keeps its duty. -/
def trnWordList (c : Config) (m : Mem) (g : Args) : List (BitVec c.dataWidth) :=
  (List.range (trnWords c g)).map (trnWord c m g)

@[simp] theorem trnWordList_length : (trnWordList c m g).length = trnWords c g := by simp [trnWordList]

theorem trnWords_mul_lanes (he : entryCheck c 1#4 g = .none) : trnWords c g * c.lanes = g.d0 * g.d1 :=
  Nat.div_mul_cancel (Nat.dvd_of_mod_eq_zero (entryCheck_transpose he).2.2)

/-- A destination element lies in one of the words TRN_RUN writes. -/
theorem div_lanes_lt_trnWords (hc : c.wf = true) (he : entryCheck c 1#4 g = .none) {e : Nat} (hlt : e < g.d0 * g.d1) :
    e / c.lanes < trnWords c g := by
  rwa [Nat.div_lt_iff_lt_mul (Config.lanes_pos hc), trnWords_mul_lanes he]

/-- Element e of the words TRN_RUN writes. -/
theorem streamElem_trnWordList (hc : c.wf = true) (he : entryCheck c 1#4 g = .none) {e : Nat} (hlt : e < g.d0 * g.d1) :
    streamElem c (trnWordList c m g) e = memElem c m g.a0 (trnSource g.d0 g.d1 e) := by
  have hk : e % c.lanes < c.lanes := Nat.mod_lt e (Config.lanes_pos hc)
  rw [streamElem, trnWordList, getD_map_range _ _ (div_lanes_lt_trnWords hc he hlt), trnWord, laneGet_pack hc _ hk,
    getD_map_range _ _ hk, Nat.div_add_mod']

/-- The words TRN_RUN writes are the encoding of the transposed source matrix. -/
theorem encodeMatrix_transposed (he : entryCheck c 1#4 g = .none) :
    encodeMatrix c (memMatrix c m g.a0 g.d0 g.d1).transposed = .ok (trnWordList c m g) := by
  obtain ⟨hr, -, hmod⟩ := entryCheck_transpose he
  have hsize : (memMatrix c m g.a0 g.d0 g.d1).transposed.rows * (memMatrix c m g.a0 g.d0 g.d1).transposed.cols =
      g.d0 * g.d1 := Nat.mul_comm _ _
  rw [encodeMatrix, hsize, if_pos hmod]
  refine congrArg Except.ok (List.map_congr_left fun t ht => congrArg (pack c) (List.map_congr_left fun k hk => ?_))
  have ht : (t + 1) * c.lanes ≤ g.d0 * g.d1 :=
    trnWords_mul_lanes he ▸ Nat.mul_le_mul_right c.lanes (List.mem_range.mp ht)
  have hk := List.mem_range.mp hk
  rw [Nat.succ_mul] at ht
  exact transposed_memMatrix_elem hr (by omega)

end

/-! #### The whole command -/

/-- TRANSPOSE's one step after the launch (log 11): the destination words, and the normal completion. -/
theorem runCommand_transpose {s : State} (hc : s.cfg.wf = true) (hb : s.block.status.busy = false)
    (hq : s.schedule = []) (he : entryCheck s.cfg 1#4 s.block.args = .none)
    (ha : (commandRequests s.cfg .transpose s.block.args).all (admits s.cfg) = true) :
    ∃ t, runCommand .transpose s = .next t ∧
      t.mem = setMemWords s.cfg s.mem s.block.args.a2 (trnWordList s.cfg s.mem s.block.args) ∧
      t.block.status = Status.completed ∧ t.block.fsm = .idle := by
  obtain ⟨hrun, -⟩ := runCommand_eq (i := .transpose) hc hq hb he ha
  obtain ⟨hl, -⟩ := launched_armed (i := .transpose) hc hq he ha
  have hturn : (blockTurn^[commandSteps .transpose s.block.args] (armed 1#4 .trnRun s)) = _ := hl.blockTurn_eq
  refine ⟨_, hrun.trans (congrArg _ hturn), microStep_mem_trnRun rfl, rfl, rfl⟩

/-- Settles O33: the destination words, read back, are the encoding of the transposed source matrix, and their elements
are the source's by index. -/
theorem transposeComputesTranspose : Obligations.TransposeComputesTranspose := by
  intro s hc hm hb hq he ha
  obtain ⟨-, -, hmod⟩ := entryCheck_transpose he
  have hw := Config.dataWidth_bytes hc
  obtain ⟨t, hrun, hmem, hstatus, hfsm⟩ := runCommand_transpose hc hb hq he ha
  have hlen : (trnWordList s.cfg s.mem s.block.args).length = trnWords s.cfg s.block.args := trnWordList_length
  refine ⟨t, memMatrix s.cfg s.mem s.block.args.a0 s.block.args.d0 s.block.args.d1,
    trnWordList s.cfg s.mem s.block.args, hrun, decodeStream_memWords (Config.lanes_pos hc) hmod,
    encodeMatrix_transposed he, ?_, fun j k hj hk => ?_, fun y hy => ?_, hstatus, hfsm⟩
  · rw [hmem, ← hlen, memWords_setMemWords hm hw]
  · have hlt := row_elem_lt hj hk
    rw [hmem, memElem_setMemWords hm hw (hlen ▸ div_lanes_lt_trnWords hc he hlt), streamElem_trnWordList hc he hlt,
      trnSource_of_row hk]
  · have hout : ¬ inRegion (wordRegion s.cfg s.block.args.a2 (trnWords s.cfg s.block.args)) y = true :=
      Bool.eq_false_iff.mp hy
    rw [inRegion_wordRegion] at hout
    rw [hmem, readByte_setMemWords_outside hm _ _ (by rw [hlen]; omega)]

end Sys2Proof.Machine
end

/-!
### The entry checks of TRANSPOSE (41_transpose.md R131)
-/

section
namespace Sys2Proof.Machine

/-- `ispow2` of R13 holds of the powers of two and of nothing else. -/
theorem isPow2_iff {v : Nat} : isPow2 v = true ↔ ∃ k, v = 2 ^ k := by
  rw [isPow2, Bool.and_eq_true, bne_iff_ne, beq_iff_eq]
  exact Nat.ne_zero_and_sub_one_eq_zero_iff_isPowerOfTwo

/-! #### The address checks, one lemma per outcome (60_exceptions.md R227 to R229, R231) -/

/-- R227: every region starts at a multiple of WB. -/
def Aligned (c : Config) (rs : List Region) : Prop := ∀ r ∈ rs, c.wordBytes ∣ r.base

/-- R228: every region ends within the address space. -/
def InSpace (c : Config) (rs : List Region) : Prop := ∀ r ∈ rs, r.base + r.len ≤ 2 ^ c.addrWidth

section
variable {c : Config} {inputs : List Region} {out : Region}

theorem aligned_iff {rs : List Region} : Aligned c rs ↔ (rs.any fun r => r.base % c.wordBytes != 0) = false := by
  simp [Aligned, Nat.dvd_iff_mod_eq_zero]

theorem inSpace_iff {rs : List Region} :
    InSpace c rs ↔ (rs.any fun r => 2 ^ c.addrWidth < r.base + r.len) = false := by
  simp [InSpace]

/-- An input region overlaps the output exactly when it shares a byte with it. -/
theorem any_overlaps_iff : (inputs.any fun r => overlaps r out) = true ↔ ∃ r ∈ inputs, sharesByte r out := by
  simp [overlaps_iff_sharesByte]

theorem addressCheck_align (h : ¬ Aligned c (inputs ++ [out])) : addressCheck c inputs out = .align := by
  rw [aligned_iff, Bool.not_eq_false] at h
  exact if_pos h

theorem addressCheck_range (ha : Aligned c (inputs ++ [out])) (h : ¬ InSpace c (inputs ++ [out])) :
    addressCheck c inputs out = .range := by
  rw [inSpace_iff, Bool.not_eq_false] at h
  rw [addressCheck, aligned_iff.mp ha, h]
  rfl

theorem addressCheck_overlap (ha : Aligned c (inputs ++ [out])) (hr : InSpace c (inputs ++ [out]))
    (h : ∃ r ∈ inputs, sharesByte r out) : addressCheck c inputs out = .overlap := by
  rw [addressCheck, aligned_iff.mp ha, inSpace_iff.mp hr, any_overlaps_iff.mpr h]
  rfl

theorem addressCheck_none (ha : Aligned c (inputs ++ [out])) (hr : InSpace c (inputs ++ [out]))
    (h : ¬ ∃ r ∈ inputs, sharesByte r out) : addressCheck c inputs out = .none := by
  rw [← any_overlaps_iff, Bool.not_eq_true] at h
  rw [addressCheck, aligned_iff.mp ha, inSpace_iff.mp hr, h]
  rfl

end

/-! #### The checks in order -/

section
variable {c : Config} {g : Args}

theorem entryCheck_transpose_dim0 (h0 : ¬ ∃ k, g.d0 = 2 ^ k) : entryCheck c 1#4 g = .dim0 := by
  rw [← isPow2_iff, Bool.not_eq_true] at h0
  simp [entryCheck, h0]

theorem entryCheck_transpose_dim1 (h0 : ∃ k, g.d0 = 2 ^ k) (h1 : ¬ ∃ k, g.d1 = 2 ^ k) :
    entryCheck c 1#4 g = .dim1 := by
  rw [← isPow2_iff, Bool.not_eq_true] at h1
  simp [entryCheck, isPow2_iff.mpr h0, h1]

theorem entryCheck_transpose_shape (h0 : ∃ k, g.d0 = 2 ^ k) (h1 : ∃ k, g.d1 = 2 ^ k)
    (h2 : g.d0 * g.d1 % c.lanes ≠ 0) : entryCheck c 1#4 g = .shape := by
  simp [entryCheck, isPow2_iff.mpr h0, isPow2_iff.mpr h1, h2]

/-- With dimensions and shape in order, the address checks of source and destination decide. -/
theorem entryCheck_transpose_eq (h0 : ∃ k, g.d0 = 2 ^ k) (h1 : ∃ k, g.d1 = 2 ^ k)
    (h2 : g.d0 * g.d1 % c.lanes = 0) :
    entryCheck c 1#4 g = addressCheck c (inputRegions c 1#4 g) (outputRegion c 1#4 g) := by
  simp [entryCheck, isPow2_iff.mpr h0, isPow2_iff.mpr h1, h2]

theorem transpose_aligned_iff :
    Aligned c (inputRegions c 1#4 g ++ [outputRegion c 1#4 g]) ↔ c.wordBytes ∣ g.a0 ∧ c.wordBytes ∣ g.a2 := by
  simp [Aligned, inputRegions, outputRegion, wordRegion]

theorem transpose_inSpace_iff :
    InSpace c (inputRegions c 1#4 g ++ [outputRegion c 1#4 g]) ↔
      g.a0 + trnWords c g * c.wordBytes ≤ 2 ^ c.addrWidth ∧ g.a2 + trnWords c g * c.wordBytes ≤ 2 ^ c.addrWidth := by
  simp [InSpace, inputRegions, outputRegion, wordRegion]

theorem transpose_sharesByte_iff :
    (∃ r ∈ inputRegions c 1#4 g, sharesByte r (outputRegion c 1#4 g)) ↔
      sharesByte (wordRegion c g.a2 (trnWords c g)) (wordRegion c g.a0 (trnWords c g)) := by
  simp [inputRegions, outputRegion, sharesByte, and_comm]

end

/-- A launch that fails its checks is the error completion with the code they give (R230). -/
theorem exec_of_failed_check {i : Instr} {s : State} {code : ErrCode} (hb : s.block.status.busy = false)
    (he : entryCheck s.cfg i.op s.block.args = code) (hne : code ≠ .none) :
    exec i s = .next (failedLaunch i.op code.byte s) := by
  rw [exec_eq, startCommand_idle hb]
  obtain ⟨hn, -⟩ | ⟨-, hl⟩ := launch_cases i.op s.block
  · exact absurd (he.symm.trans hn) hne
  · rw [hl, he]
    rfl

/-- A launch that passes its checks arms the block (R192). -/
theorem exec_of_passed_check {i : Instr} {s : State} (hb : s.block.status.busy = false)
    (he : entryCheck s.cfg i.op s.block.args = .none) : exec i s = .next (armed i.op (firstState i) s) := by
  rw [exec_eq, startCommand_eq_armed hb he]

/-- Settles O8: each clause's premises single out one outcome of the checks, and that outcome gives the whole next
state. -/
theorem transposeEntryChecks : Obligations.TransposeEntryChecks := by
  rintro s - hb nw rfl
  have failed {code : ErrCode} (he : entryCheck s.cfg 1#4 s.block.args = code) (hne : code ≠ .none) :
      exec .transpose s = .next (failedLaunch 1 code.byte s) := exec_of_failed_check hb he hne
  refine ⟨fun h0 => failed (entryCheck_transpose_dim0 h0) nofun, fun h0 =>
    ⟨fun h1 => failed (entryCheck_transpose_dim1 h0 h1) nofun, fun h1 =>
    ⟨fun h2 => failed (entryCheck_transpose_shape h0 h1 h2) nofun, fun h2 => ?_⟩⟩⟩
  have hcheck := entryCheck_transpose_eq h0 h1 h2
  refine ⟨fun h => failed (hcheck.trans (addressCheck_align (mt transpose_aligned_iff.mp h))) nofun, fun h => ?_⟩
  have ha := transpose_aligned_iff.mpr h
  refine ⟨fun h => failed (hcheck.trans (addressCheck_range ha (mt transpose_inSpace_iff.mp h))) nofun, fun h => ?_⟩
  have hr := transpose_inSpace_iff.mpr h
  refine ⟨fun h => failed (hcheck.trans (addressCheck_overlap ha hr (transpose_sharesByte_iff.mpr h))) nofun, fun h => ?_⟩
  exact exec_of_passed_check hb (hcheck.trans (addressCheck_none ha hr (mt transpose_sharesByte_iff.mp h)))

end Sys2Proof.Machine
end

/-!
### The micro-steps of MULTIPLY (42_multiply.md R154 to R157)
-/

section
namespace Sys2Proof.Machine

theorem blockTurn_of_no_request {s : State} (hr : nextRequest s.block = none) : blockTurn s = microStep s := by
  rw [blockTurn, hr]

theorem blockTurn_of_request {s : State} {r : Request} (hr : nextRequest s.block = some r)
    (ha : admits s.cfg r = true) : blockTurn s = (microStep s).record r := by
  rw [blockTurn, hr]
  exact if_pos ha

/-! #### The request of each sequencer state -/

section
variable {c : Config} {b : Block c}

theorem nextRequest_mulInit (h : b.fsm = .mulInit) : nextRequest b = some (.read (aWordAddr c b.args 0)) := by
  simp [nextRequest, mulRequest, h]

theorem nextRequest_mulRow (h : b.fsm = .mulRow) : nextRequest b =
    if b.i.toNat + 1 < b.args.d0 then some (.read (aWordAddr c b.args (b.i.toNat + 1))) else none := by
  simp [nextRequest, mulRequest, h]

theorem nextRequest_mulBload (h : b.fsm = .mulBload) : nextRequest b = some (.read (bWordAddr c b.args 0)) := by
  simp [nextRequest, mulRequest, h]

theorem nextRequest_mulCol (h : b.fsm = .mulCol) : nextRequest b =
    if b.j.toNat + 1 < b.args.d2 then some (.read (bWordAddr c b.args (b.j.toNat + 1))) else none := by
  simp [nextRequest, mulRequest, h]

theorem nextRequest_mulFlush (h : b.fsm = .mulFlush) :
    nextRequest b = some (.write (cWordAddr c b.args b.i.toNat)) := by
  simp [nextRequest, mulRequest, h]

/-- Word 0 of a stream lies at its base. -/
theorem aWordAddr_zero (c : Config) (g : Args) : aWordAddr c g 0 = g.a0 := by simp [aWordAddr]

theorem bWordAddr_zero (c : Config) (g : Args) : bWordAddr c g 0 = g.a1 := by simp [bWordAddr]

end

/-! #### The micro-step of each sequencer state -/

section
variable {s : State}

theorem microStep_mulInit (h : s.block.fsm = .mulInit) : microStep s = s.setBlock (mulInit s.mem s.block) := by
  simp only [microStep, h]

theorem microStep_mulRow (h : s.block.fsm = .mulRow) : microStep s = s.setBlock (mulRow s.mem s.block) := by
  simp only [microStep, h]

theorem microStep_mulBload (h : s.block.fsm = .mulBload) : microStep s = s.setBlock (mulBload s.mem s.block) := by
  simp only [microStep, h]

theorem microStep_mulCol (h : s.block.fsm = .mulCol) : microStep s = s.setBlock (mulCol s.mem s.block) := by
  simp only [microStep, h]

/-- While the host keeps its duty MUL_FLUSH writes out_word and uses no free value (R267). -/
theorem microStep_mulFlush (h : s.block.fsm = .mulFlush) (ht : s.tainted = false) {b : Block s.cfg}
    (hb : mulFlushBlock s.block = b) :
    microStep s =
      (s.setMem (setMemWord s.cfg s.mem (cWordAddr s.cfg s.block.args s.block.i.toNat) s.block.outWord)).setBlock
        b := by
  have hword : flushWord s = s.block.outWord := by simp [flushWord, ht]
  have hfresh : (microStep s).fresh = s.fresh := by
    simp only [microStep, h]
    exact congrArg (s.fresh + ·) (if_neg (by simp [ht]))
  rw [microStep_eq, nextBlock_mulFlush h, hb, microStep_mem_mulFlush h, hword, hfresh]
  rfl

end

/-- Settles O24: the request is the read of in1 word 0, and the step loads that word. -/
theorem mulInitStep : Obligations.MulInitStep := by
  intro s hf ha
  have hr := nextRequest_mulInit hf
  rw [aWordAddr_zero] at hr
  rw [blockTurn_of_request hr ha, microStep_mulInit hf, mulInit, aWordAddr_zero]

/-- Settles O25: the bound i+1 < n decides whether MUL_ROW makes its request and its load; MUL_BLOAD always loads in2
word 0. -/
theorem mulRowAndBloadSteps : Obligations.MulRowAndBloadSteps := by
  intro s
  refine ⟨fun hf hi ha => ?_, fun hf hi => ?_, fun hf ha => ?_⟩
  · have hr := nextRequest_mulRow hf
    rw [if_pos hi] at hr
    rw [blockTurn_of_request hr ha, microStep_mulRow hf, mulRow_eq, if_pos hi]
    rfl
  · have hr := nextRequest_mulRow hf
    rw [if_neg (Nat.not_lt.mpr hi)] at hr
    rw [blockTurn_of_no_request hr, microStep_mulRow hf, mulRow_eq, if_neg (Nat.not_lt.mpr hi)]
  · have hr := nextRequest_mulBload hf
    rw [bWordAddr_zero] at hr
    rw [blockTurn_of_request hr ha, microStep_mulBload hf, mulBload, bWordAddr_zero]

/-- Settles O26: the bound j+1 < p decides whether MUL_COL prefetches and swaps; the packed lane is the same, and
m / L = 1 makes the words of in2 adjacent. -/
theorem mulColStep : Obligations.MulColStep := by
  rintro s hf w rfl
  have hr := nextRequest_mulCol hf
  refine ⟨?_, fun hj => ?_⟩
  · rintro hj a rfl
    rw [if_pos hj] at hr
    refine ⟨fun ha => ?_, fun hd hl => ?_⟩
    · rw [blockTurn_of_request hr ha, microStep_mulCol hf, mulCol_of_more hj]
      rfl
    · rw [hd, Nat.div_self hl, Nat.mul_one]
  · rw [if_neg (Nat.not_lt.mpr hj)] at hr
    rw [blockTurn_of_no_request hr, microStep_mulCol hf, mulCol_of_last (Nat.not_lt.mpr hj)]
    rfl

/-- Settles O27: the request is the write of out word i, and the bound i+1 < n decides between the swap and the
completion. -/
theorem mulFlushStep : Obligations.MulFlushStep := by
  rintro s hf ht a rfl ha
  rw [blockTurn_of_request (nextRequest_mulFlush hf) ha]
  refine ⟨fun hi => ?_, fun hi => ?_⟩
  · rw [microStep_mulFlush hf ht (mulFlushBlock_of_more hi)]
    rfl
  · rw [microStep_mulFlush hf ht (mulFlushBlock_of_last (Nat.not_lt.mpr hi))]
    rfl

end Sys2Proof.Machine
end

/-!
### MULTIPLY as a whole (42_multiply.md R153, R163, R164)

The run keeps R163's double-buffer invariants `MulProgress`: every word a step reads is a word of the input regions, and
only the output region is written, which shares no byte with them. Once the last row is flushed the output region holds
`productWords` of memory as it was at launch.
-/

section
namespace Sys2Proof.Machine

/-! #### Steps that write no memory keep the progress of a run -/

section
variable {s : State}

/-- MUL_COL puts column j's result into lane j, and leaves the lanes before it. -/
theorem lanesHold_packColumn (hc : s.cfg.wf = true) {r : Nat} (ha : s.block.aCur = rowWord s r)
    (hb : s.block.bCur = columnWord s s.block.j.toNat) (hj : s.block.j.toNat < s.cfg.lanes)
    (h : lanesHold s s.block.outWord r s.block.j.toNat) :
    lanesHold s (packColumn s.block) r (s.block.j.toNat + 1) := by
  intro x hx
  rw [packColumn, Nat.mod_eq_of_lt hj]
  rcases Nat.lt_succ_iff_lt_or_eq.mp hx with hlt | rfl
  · rw [laneGet_laneSet_other _ _ (Config.lane_inside hc (hlt.trans hj)) hlt.ne']
    exact h x hlt
  · rw [laneGet_laneSet_same _ _ _ (Config.lane_inside hc hj), ha, hb]

/-- The steps that write no memory keep R163's invariants. -/
theorem MulProgress.microStep_of_no_write (hc : s.cfg.wf = true) (hs : sequencerOk s.block)
    (hk : CommandOk s.cfg s.block) (h : MulProgress s) (h1 : s.block.fsm ≠ .mulFlush) (h2 : s.block.fsm ≠ .trnRun) :
    MulProgress (microStep s) := by
  cases hf : s.block.fsm with
  | idle => simpa only [microStep, hf] using h
  | mulFlush => exact absurd hf h1
  | trnRun => exact absurd hf h2
  | mulInit =>
    rw [microStep_mulInit hf]
    exact
      { row_loaded := fun _ => rfl
        next_row_loaded := fun _ hne => absurd rfl hne
        column_loaded := nofun
        lanes_packed := nofun
        row_packed := nofun
        rows_written := fun _ r hr => absurd hr (Nat.not_lt_zero r) }
  | mulRow =>
    have hin : inRow s.block.fsm = true := by rw [hf]; rfl
    rw [microStep_mulRow hf, mulRow_eq]
    exact
      { row_loaded := fun _ => h.row_loaded hin
        next_row_loaded := fun _ _ hlt => if_pos hlt
        column_loaded := nofun
        lanes_packed := nofun
        row_packed := nofun
        rows_written := fun _ => h.rows_written hin }
  | mulBload =>
    have hin : inRow s.block.fsm = true := by rw [hf]; rfl
    rw [microStep_mulBload hf]
    exact
      { row_loaded := fun _ => h.row_loaded hin
        next_row_loaded := fun _ _ => h.next_row_loaded hin (by simp [hf])
        column_loaded := fun _ => rfl
        lanes_packed := fun _ x hx => absurd hx (Nat.not_lt_zero x)
        row_packed := nofun
        rows_written := fun _ => h.rows_written hin }
  | mulCol =>
    have hin : inRow s.block.fsm = true := by rw [hf]; rfl
    have hj := hk.column_counter hf
    obtain ⟨-, -, -, hp⟩ := hk.multiply_operands hs (by simp [hf]) h2
    have hpack := lanesHold_packColumn hc (h.row_loaded hin) (h.column_loaded hf) (hp ▸ hj) (h.lanes_packed hf)
    rw [microStep_mulCol hf]
    by_cases hlt : s.block.j.toNat + 1 < s.block.args.d2
    · rw [mulCol_of_more hlt]
      have hj' : (s.block.j + 1).toNat = s.block.j.toNat + 1 := toNat_succ_of_lt hlt
      exact
        { row_loaded := fun _ => h.row_loaded hin
          next_row_loaded := fun _ _ => h.next_row_loaded hin (by simp [hf])
          column_loaded := fun _ => congrArg (columnWord s) hj'.symm
          lanes_packed := fun _ => hj' ▸ hpack
          row_packed := fun hf' => nomatch hf.symm.trans hf'
          rows_written := fun _ => h.rows_written hin }
    · rw [mulCol_of_last hlt]
      have hlast : s.block.j.toNat + 1 = s.block.args.d2 := by omega
      exact
        { row_loaded := fun _ => h.row_loaded hin
          next_row_loaded := fun _ _ => h.next_row_loaded hin (by simp [hf])
          column_loaded := nofun
          lanes_packed := nofun
          row_packed := fun _ => hlast ▸ hpack
          rows_written := fun _ => h.rows_written hin }

end

/-! #### The output region is apart from the input regions (R151, R229) -/

/-- Passed address checks leave no input region that shares a byte with the output. -/
theorem not_sharesByte_of_addressCheck {c : Config} {inputs : List Region} {out r : Region}
    (h : addressCheck c inputs out = .none) (hr : r ∈ inputs) : ¬ sharesByte r out := by
  intro hsh
  by_cases ha : Aligned c (inputs ++ [out])
  · by_cases hs : InSpace c (inputs ++ [out])
    · exact nomatch (addressCheck_overlap ha hs ⟨r, hr, hsh⟩).symm.trans h
    · exact nomatch (addressCheck_range ha hs).symm.trans h
  · exact nomatch (addressCheck_align ha).symm.trans h

/-- The address checks are part of either command's entry checks. -/
theorem addressCheck_of_entryCheck {c : Config} {op : BitVec 4} {g : Args} (h : entryCheck c op g = .none) :
    addressCheck c (inputRegions c op g) (outputRegion c op g) = .none := by
  unfold entryCheck at h
  split_ifs at h
  all_goals exact h

section
variable {c : Config} {g : Args} {m m' : Mem}

/-- Memories that differ in the output region alone agree on the inputs. -/
theorem agreeOn_inputs {op : BitVec 4} (he : entryCheck c op g = .none)
    (hout : ∀ y, inRegion (outputRegion c op g) y = false → m'.readByte y = m.readByte y) :
    ∀ r ∈ inputRegions c op g, AgreeOn r m m' := by
  intro r hr y hy
  refine hout y (Bool.eq_false_iff.mpr fun hy' => ?_)
  exact not_sharesByte_of_addressCheck (addressCheck_of_entryCheck he) hr ⟨y, hy, hy'⟩

theorem memWord_aWordAddr_eq (hin : ∀ r ∈ inputRegions c 0#4 g, AgreeOn r m m') {t : Nat} (ht : t < g.d0) :
    memWord c m' (aWordAddr c g t) = memWord c m (aWordAddr c g t) :=
  (hin (wordRegion c g.a0 g.d0) (by simp [inputRegions])).memWord ht

theorem memWord_bWordAddr_eq (hc : c.wf = true) (hd : g.d1 = c.lanes)
    (hin : ∀ r ∈ inputRegions c 0#4 g, AgreeOn r m m') {t : Nat} (ht : t < g.d2) :
    memWord c m' (bWordAddr c g t) = memWord c m (bWordAddr c g t) := by
  rw [bWordAddr_of_lanes hc hd]
  exact (hin (wordRegion c g.a1 g.d2) (by simp [inputRegions, hd, Nat.div_self (Config.lanes_pos hc)])).memWord ht

end

/-! #### The flush of a row (R157) -/

/-- The output word of a row ends before those of later rows begin. -/
theorem cWordAddr_add_le {c : Config} {g : Args} {r i : Nat} (h : r < i) :
    cWordAddr c g r + c.wordBytes ≤ cWordAddr c g i := by
  have hle : (r + 1) * c.wordBytes ≤ i * c.wordBytes := Nat.mul_le_mul_right _ h
  rw [Nat.succ_mul] at hle
  simp only [cWordAddr]
  omega

theorem microStep_mem_wf {s : State} (hm : s.mem.wf = true) : (microStep s).mem.wf = true := by
  by_cases hfl : s.block.fsm = .mulFlush
  · rw [microStep_mem_mulFlush hfl]
    exact setMemWord_wf hm _ _
  by_cases htr : s.block.fsm = .trnRun
  · rw [microStep_mem_trnRun htr]
    exact setMemWords_wf hm _ _
  · rwa [microStep_mem_of_no_write hfl htr]

section
variable {s : State} (hc : s.cfg.wf = true) (hm : s.mem.wf = true) (hs : sequencerOk s.block)
  (hk : CommandOk s.cfg s.block)
include hm hs hk

/-- A step of MULTIPLY writes inside the output region only. -/
theorem readByte_microStep_of_not_output (hop : s.block.op = 0#4) {y : Nat}
    (hy : inRegion (outputRegion s.cfg 0#4 s.block.args) y = false) :
    (microStep s).mem.readByte y = s.mem.readByte y := by
  by_cases hf : s.block.fsm = .mulFlush
  · have hi : cWordAddr s.cfg s.block.args s.block.i.toNat + s.cfg.wordBytes ≤
        cWordAddr s.cfg s.block.args s.block.args.d0 := cWordAddr_add_le (hk.row_counter (by rw [hf]; rfl))
    have hout : ¬ inRegion (wordRegion s.cfg s.block.args.a2 s.block.args.d0) y = true := Bool.eq_false_iff.mp hy
    rw [inRegion_wordRegion] at hout
    simp only [cWordAddr] at hi
    rw [microStep_mem_mulFlush hf, readByte_setMemWord hm, if_neg (by rw [cWordAddr]; omega)]
  · rw [microStep_mem_of_no_write hf fun ht => hk.op_ne_zero_of_trnRun hs ht hop]

/-- So the operands stay as they were. -/
theorem agreeOn_inputs_microStep (hop : s.block.op = 0#4) (hf : s.block.fsm ≠ .idle) :
    ∀ r ∈ inputRegions s.cfg 0#4 s.block.args, AgreeOn r s.mem (microStep s).mem :=
  agreeOn_inputs (hop ▸ (hk.busy_checked hs hf).2) fun _ hy => readByte_microStep_of_not_output hm hs hk hop hy

include hc

/-- After the flush of row i the rows up to i are written. -/
theorem MulProgress.rows_flushed (ht : s.tainted = false) (h : MulProgress s) (hf : s.block.fsm = .mulFlush) :
    ∀ r < s.block.i.toNat + 1,
      lanesHold (s.setMem (microStep s).mem) (outputWord (s.setMem (microStep s).mem) r) r s.block.args.d2 := by
  have hin : inRow s.block.fsm = true := by rw [hf]; rfl
  have hi := hk.row_counter hin
  obtain ⟨hop, -, hd, -⟩ := hk.multiply_operands hs (by simp [hf]) (by simp [hf])
  have hagree := agreeOn_inputs_microStep hm hs hk hop (by simp [hf])
  have hwrite : (microStep s).mem =
      setMemWord s.cfg s.mem (cWordAddr s.cfg s.block.args s.block.i.toNat) s.block.outWord :=
    congrArg State.mem (microStep_mulFlush hf ht rfl)
  intro r hr x hx
  have hrow : rowWord (s.setMem (microStep s).mem) r = rowWord s r := memWord_aWordAddr_eq hagree (by omega)
  have hcol : columnWord (s.setMem (microStep s).mem) x = columnWord s x := memWord_bWordAddr_eq hc hd hagree hx
  refine Eq.trans ?_ (congrArg₂ (dot s.cfg) hrow hcol).symm
  rcases Nat.lt_succ_iff_lt_or_eq.mp hr with hlt | rfl
  · have hout : outputWord (s.setMem (microStep s).mem) r = outputWord s r := by
      rw [hwrite]
      exact memWord_setMemWord_disjoint hm _ (.inr (cWordAddr_add_le hlt))
    rw [hout]
    exact h.rows_written hin r hlt x hx
  · have hout : outputWord (s.setMem (microStep s).mem) s.block.i.toNat = s.block.outWord := by
      rw [hwrite]
      exact memWord_setMemWord hm (Config.dataWidth_bytes hc) _ _
    rw [hout]
    exact h.row_packed hf x hx

/-- The flush of a row keeps R163's invariants; after the last row none is left to keep. -/
theorem MulProgress.microStep_of_flush (ht : s.tainted = false) (h : MulProgress s) (hf : s.block.fsm = .mulFlush) :
    MulProgress (microStep s) := by
  have hin : inRow s.block.fsm = true := by rw [hf]; rfl
  obtain ⟨hop, -, -, -⟩ := hk.multiply_operands hs (by simp [hf]) (by simp [hf])
  have hagree := agreeOn_inputs_microStep hm hs hk hop (by simp [hf])
  have hrows := h.rows_flushed hc hm hs hk ht hf
  rw [microStep_eq, nextBlock_mulFlush hf]
  by_cases hi : s.block.i.toNat + 1 < s.block.args.d0
  · have hi' : (s.block.i + 1).toNat = s.block.i.toNat + 1 := toNat_succ_of_lt hi
    have hnext : s.block.aNext = rowWord (s.setMem (microStep s).mem) (s.block.i.toNat + 1) :=
      (h.next_row_loaded hin (by simp [hf]) hi).trans (memWord_aWordAddr_eq hagree hi).symm
    rw [mulFlushBlock_of_more hi]
    exact
      { row_loaded := fun _ => hi' ▸ hnext
        next_row_loaded := fun _ hne => absurd rfl hne
        column_loaded := nofun
        lanes_packed := nofun
        row_packed := nofun
        rows_written := fun _ => hi' ▸ hrows }
  · rw [mulFlushBlock_of_last hi]
    exact ⟨nofun, nofun, nofun, nofun, nofun, nofun⟩

/-- R163's invariants hold at every step of an undisturbed MULTIPLY. -/
theorem MulProgress.blockTurn (hop : s.block.op = 0#4) (ht : s.tainted = false) (h : MulProgress s) :
    MulProgress (blockTurn s) := by
  have hstep : MulProgress (microStep s) := by
    by_cases hf : s.block.fsm = .mulFlush
    · exact h.microStep_of_flush hc hm hs hk ht hf
    · exact h.microStep_of_no_write hc hs hk hf fun hf' => hk.op_ne_zero_of_trnRun hs hf' hop
  obtain ⟨-, he⟩ | ⟨r, -, -, he⟩ | ⟨r, -, -, he⟩ := blockTurn_cases s
  · rwa [he]
  · rw [he]
    obtain ⟨h1, h2, h3, h4, h5, h6⟩ := hstep
    exact ⟨h1, h2, h3, h4, h5, h6⟩
  · rwa [he]

end

/-! #### The reference product, word by word (R153) -/

/-- Element (r, k) of a row-major matrix is element k of its row r. -/
theorem row_div_mod {cols r k : Nat} (hk : k < cols) : (r * cols + k) / cols = r ∧ (r * cols + k) % cols = k := by
  constructor
  · rw [Nat.mul_comm, Nat.mul_add_div (Nat.zero_lt_of_lt hk), Nat.div_eq_of_lt hk, Nat.add_zero]
  · rw [Nat.mul_add_mod', Nat.mod_eq_of_lt hk]

/-- The elements of a matrix given index by index. -/
theorem Matrix.get_ofFn {w rows cols r k : Nat} (f : Nat → Nat → BitVec w) (hr : r < rows) (hk : k < cols) :
    (Matrix.ofFn rows cols f).get r k = f r k := by
  obtain ⟨hdiv, hmod⟩ := row_div_mod (r := r) hk
  refine (getD_map_range _ 0 (Nat.mul_comm cols rows ▸ row_elem_lt hr hk)).trans ?_
  simp only [Matrix.ofFn, hdiv, hmod]

theorem Matrix.get_transposed {w : Nat} (b : Matrix w) {j k : Nat} (hj : j < b.cols) (hk : k < b.rows) :
    b.transposed.get j k = b.get k j :=
  Matrix.get_ofFn _ hj hk

/-- The product with the transpose's rows is the product with the matrix's columns. -/
theorem referenceProduct_transposed {w : Nat} (a b : Matrix w) (hab : a.cols = b.rows) :
    referenceProduct a b.transposed = matrixProduct a b := by
  rw [referenceProduct, matrixProduct, Matrix.ofFn, Matrix.ofFn]
  congr 1
  refine List.map_congr_left fun e he => ?_
  have hj : e % b.cols < b.cols := Nat.mod_lt _ (Nat.pos_of_mul_pos_left (Nat.zero_lt_of_lt (List.mem_range.mp he)))
  refine congrArg (fun l : List Nat => BitVec.ofNat w l.sum) (List.map_congr_left fun k hk => ?_)
  exact congrArg (fun v => (a.get (e / b.cols) k).toNat * v.toNat)
    (b.get_transposed hj (hab ▸ List.mem_range.mp hk))

section
variable {c : Config}

/-- Row r of C as one packed word: lane j is the multiply-reduce of in1 word r and in2 word j. -/
def productWord (c : Config) (m : Mem) (g : Args) (r : Nat) : BitVec c.dataWidth :=
  pack c ((List.range c.lanes).map fun j => dot c (memWord c m (aWordAddr c g r)) (memWord c m (bWordAddr c g j)))

/-- The words MULTIPLY leaves at out, from the operands in memory. -/
def productWords (c : Config) (m : Mem) (g : Args) : List (BitVec c.dataWidth) :=
  (List.range g.d0).map (productWord c m g)

/-- A stream of n words is n rows of L elements. -/
theorem decodeStream_rows {m : Mem} {a n cols : Nat} (hc : c.wf = true) (h : cols = c.lanes) :
    decodeStream c (memWords c m a n) n cols = .ok (memMatrix c m a n cols) := by
  have hl := Config.lanes_pos hc
  have hd := decodeStream_memWords (m := m) (a := a) hl (Nat.mul_mod_left n c.lanes)
  rwa [Nat.mul_div_cancel n hl, ← h] at hd

/-- Row r of a matrix with L columns is word r of its stream. -/
theorem memMatrix_get {m : Mem} {a rows r k : Nat} (hr : r < rows) (hk : k < c.lanes) :
    (memMatrix c m a rows c.lanes).get r k = laneGet c.elemWidth (memWord c m (a + r * c.wordBytes)) k := by
  obtain ⟨hdiv, hmod⟩ := row_div_mod (r := r) hk
  refine (getD_map_range _ 0 (Nat.mul_comm c.lanes rows ▸ row_elem_lt hr hk)).trans ?_
  rw [memElem, show (memMatrix c m a rows c.lanes).cols = c.lanes from rfl, hdiv, hmod]

/-- An element of the reference product is the multiply-reduce of the operands' words (R164). -/
theorem referenceProduct_get {m : Mem} {a t n p i j : Nat} (hi : i < n) (hj : j < p) :
    (referenceProduct (memMatrix c m a n c.lanes) (memMatrix c m t p c.lanes)).get i j =
      dot c (memWord c m (a + i * c.wordBytes)) (memWord c m (t + j * c.wordBytes)) := by
  refine (Matrix.get_ofFn _ hi hj).trans ?_
  refine congrArg (fun l : List Nat => BitVec.ofNat c.elemWidth l.sum) (List.map_congr_left fun k hk => ?_)
  have hk : k < c.lanes := List.mem_range.mp hk
  rw [memMatrix_get hi hk, memMatrix_get hj hk]

/-- The words MULTIPLY leaves are the encoding of the reference product. -/
theorem encodeMatrix_referenceProduct {m : Mem} {g : Args} (hc : c.wf = true) (h1 : g.d1 = c.lanes)
    (h2 : g.d2 = c.lanes) :
    encodeMatrix c (referenceProduct (memMatrix c m g.a0 g.d0 g.d1) (memMatrix c m g.a1 g.d2 g.d1)) =
      .ok (productWords c m g) := by
  rw [h1, h2]
  refine (if_pos (Nat.mul_mod_left g.d0 c.lanes)).trans (congrArg Except.ok ?_)
  refine (congrArg (List.map _ <| List.range ·) (Nat.mul_div_cancel g.d0 (Config.lanes_pos hc))).trans ?_
  refine List.map_congr_left fun r hr => congrArg (pack c) (List.map_congr_left fun j hj => ?_)
  refine (referenceProduct_get (List.mem_range.mp hr) (List.mem_range.mp hj)).trans ?_
  rw [bWordAddr_of_lanes hc h1]
  rfl

/-- A word whose lanes hold row r's results is row r of C. -/
theorem eq_productWord {s : State} {v : BitVec s.cfg.dataWidth} {r : Nat} (hc : s.cfg.wf = true)
    (h : lanesHold s v r s.cfg.lanes) : v = productWord s.cfg s.mem s.block.args r := by
  refine eq_of_lanes hc fun k hk => (h k hk).trans ?_
  rw [productWord, laneGet_pack hc _ hk, getD_map_range _ _ hk]
  rfl

/-- The words MULTIPLY leaves depend on its input regions alone (R165). -/
theorem productWords_eq {m m' : Mem} {g : Args} (hc : c.wf = true) (h1 : g.d1 = c.lanes) (h2 : g.d2 = c.lanes)
    (hin : ∀ r ∈ inputRegions c 0#4 g, AgreeOn r m m') : productWords c m' g = productWords c m g := by
  refine List.map_congr_left fun r hr => congrArg (pack c) (List.map_congr_left fun j hj => ?_)
  have hj : j < g.d2 := h2 ▸ List.mem_range.mp hj
  rw [memWord_aWordAddr_eq hin (List.mem_range.mp hr), memWord_bWordAddr_eq hc h1 hin hj]

end

/-! #### The whole command -/

/-- What every turn of an undisturbed MULTIPLY keeps; `m₀` is memory as it was at launch. -/
structure MulRun (m₀ : Mem) (s : State) : Prop where
  launched : Launched .multiply s
  memory : s.mem.wf = true
  untainted : s.tainted = false
  outside : ∀ y, inRegion (outputRegion s.cfg 0#4 s.block.args) y = false → s.mem.readByte y = m₀.readByte y
  progress : MulProgress s
  finished : s.block.fsm = .idle → s.block.status = Status.completed ∧
    memWords s.cfg s.mem s.block.args.a2 s.block.args.d0 = productWords s.cfg s.mem s.block.args

theorem mulRun_armed {s : State} (hc : s.cfg.wf = true) (hm : s.mem.wf = true) (hq : s.schedule = [])
    (he : entryCheck s.cfg 0#4 s.block.args = .none)
    (ha : (commandRequests s.cfg .multiply s.block.args).all (admits s.cfg) = true) :
    MulRun s.mem (armed 0#4 .mulInit s) where
  launched := (launched_armed (i := .multiply) hc hq he ha).1
  memory := hm
  untainted := rfl
  outside := fun _ _ => rfl
  progress := ⟨nofun, nofun, nofun, nofun, nofun, nofun⟩
  finished := nofun

/-- The turn that reaches IDLE flushes the last row, so the whole output is written. -/
theorem memWords_of_last_flush {s : State} (hc : s.cfg.wf = true) (hm : s.mem.wf = true) (hs : sequencerOk s.block)
    (hk : CommandOk s.cfg s.block) (ht : s.tainted = false) (h : MulProgress s) (hf : s.block.fsm = .mulFlush)
    (hi : ¬ s.block.i.toNat + 1 < s.block.args.d0) :
    memWords s.cfg (microStep s).mem s.block.args.a2 s.block.args.d0 =
      productWords s.cfg (microStep s).mem s.block.args := by
  obtain ⟨-, -, -, hp⟩ := hk.multiply_operands hs (by simp [hf]) (by simp [hf])
  refine List.map_congr_left fun r hr => ?_
  have hr : r < s.block.i.toNat + 1 := by
    have := List.mem_range.mp hr
    omega
  exact eq_productWord (s := s.setMem (microStep s).mem) hc (hp ▸ h.rows_flushed hc hm hs hk ht hf r hr)

/-- MULTIPLY reaches IDLE in the flush of its last row only. -/
theorem last_flush_of_nextBlock_idle {c : Config} {m : Mem} {b : Block c} (hf : b.fsm ≠ .idle)
    (ht : b.fsm ≠ .trnRun) (h : (nextBlock m b).fsm = .idle) :
    b.fsm = .mulFlush ∧ ¬ b.i.toNat + 1 < b.args.d0 := by
  cases hfs : b.fsm with
  | idle => exact absurd hfs hf
  | trnRun => exact absurd hfs ht
  | mulInit => rw [nextBlock_mulInit hfs] at h; nomatch h
  | mulRow => rw [nextBlock_mulRow hfs, mulRow_eq] at h; nomatch h
  | mulBload => rw [nextBlock_mulBload hfs] at h; nomatch h
  | mulCol =>
    rw [nextBlock_mulCol hfs] at h
    by_cases hj : b.j.toNat + 1 < b.args.d2
    · rw [mulCol_of_more hj] at h; exact absurd h hf
    · rw [mulCol_of_last hj] at h; nomatch h
  | mulFlush =>
    refine ⟨rfl, fun hi => ?_⟩
    rw [nextBlock_mulFlush hfs, mulFlushBlock_of_more hi] at h
    nomatch h

theorem MulRun.blockTurn {m₀ : Mem} {s : State} (h : MulRun m₀ s) : MulRun m₀ (blockTurn s) := by
  by_cases hf : s.block.fsm = .idle
  · rwa [blockTurn_idle hf]
  obtain ⟨hl, hm, ht, hout, hp, -⟩ := h
  have hl' := hl.blockTurn
  have heq := hl.blockTurn_eq
  obtain ⟨hc, -, hs, hk, hop, -⟩ := hl
  have htrn : s.block.fsm ≠ .trnRun := fun h => hk.op_ne_zero_of_trnRun hs h hop
  have hp' := hp.blockTurn hc hm hs hk hop ht
  have hargs : (nextBlock s.mem s.block).args = s.block.args := nextBlock_args _ _
  rw [heq] at hl' hp' ⊢
  refine ⟨hl', microStep_mem_wf hm, ht, fun y hy => ?_, hp', fun hidle => ?_⟩
  · simp only [hargs] at hy
    exact (readByte_microStep_of_not_output hm hs hk hop hy).trans (hout y hy)
  · obtain ⟨hfl, hi⟩ := last_flush_of_nextBlock_idle hf htrn hidle
    simp only [hargs]
    refine ⟨?_, memWords_of_last_flush hc hm hs hk ht hp hfl hi⟩
    rw [nextBlock_mulFlush hfl, mulFlushBlock_of_last hi]
    rfl

theorem MulRun.iterate {m₀ : Mem} {s : State} (h : MulRun m₀ s) (k : Nat) : MulRun m₀ (Machine.blockTurn^[k] s) :=
  Function.Iterate.rec (MulRun m₀) h (fun _ h => h.blockTurn) k

/-- Once the command is done, out holds the product of the operands as they were at launch. -/
theorem runCommand_multiply {s : State} (hc : s.cfg.wf = true) (hm : s.mem.wf = true)
    (hb : s.block.status.busy = false) (hq : s.schedule = []) (he : entryCheck s.cfg 0#4 s.block.args = .none)
    (ha : (commandRequests s.cfg .multiply s.block.args).all (admits s.cfg) = true) :
    ∃ t, runCommand .multiply s = .next t ∧
      memWords s.cfg t.mem s.block.args.a2 s.block.args.d0 = productWords s.cfg s.mem s.block.args ∧
      (∀ y, inRegion (outputRegion s.cfg 0#4 s.block.args) y = false → t.mem.readByte y = s.mem.readByte y) ∧
      t.block.status = Status.completed ∧ t.block.fsm = .idle := by
  obtain ⟨-, h1, h2⟩ := entryCheck_multiply he
  obtain ⟨hrun, hidle⟩ := runCommand_eq (i := .multiply) hc hq hb he ha
  obtain ⟨hcfg, -, hargs⟩ := iterate_blockTurn_frame (armed 0#4 .mulInit s) (commandSteps .multiply s.block.args)
  obtain ⟨-, -, -, hout, -, hfin⟩ := (mulRun_armed hc hm hq he ha).iterate (commandSteps .multiply s.block.args)
  obtain ⟨hstatus, hwords⟩ := hfin hidle
  rw [hargs, hcfg] at hout hwords
  refine ⟨_, hrun, hwords.trans ?_, hout, hstatus, hidle⟩
  exact productWords_eq hc h1 h2 (agreeOn_inputs he hout)

/-- Settles O31: the command is a run of block turns from the launch that keeps `MulRun`, and the words it leaves at out
are the encoding of the reference product of the decoded operands. -/
theorem multiplyComputesProduct : Obligations.MultiplyComputesProduct := by
  intro s hc hm hb hq he ha
  obtain ⟨-, h1, h2⟩ := entryCheck_multiply he
  obtain ⟨t, hrun, hwords, hout, hstatus, hidle⟩ := runCommand_multiply hc hm hb hq he ha
  refine ⟨t, _, _, _, hrun, decodeStream_rows hc h1, decodeStream_rows hc h1,
    encodeMatrix_referenceProduct hc h1 h2, hwords, fun b _ hrows _ hx => ?_, hout, hstatus, hidle⟩
  rw [hx]
  exact referenceProduct_transposed _ b hrows.symm

end Sys2Proof.Machine
end

/-!
### The entry checks of MULTIPLY (42_multiply.md R151)
-/

section
namespace Sys2Proof.Machine

section
variable {c : Config} {g : Args}

theorem entryCheck_multiply_dim0 (h0 : ¬ ∃ k, g.d0 = 2 ^ k) : entryCheck c 0#4 g = .dim0 := by
  rw [← isPow2_iff, Bool.not_eq_true] at h0
  simp [entryCheck, h0]

theorem entryCheck_multiply_dim1 (h0 : ∃ k, g.d0 = 2 ^ k) (h1 : g.d1 ≠ c.lanes) : entryCheck c 0#4 g = .dim1 := by
  simp [entryCheck, isPow2_iff.mpr h0, h1]

theorem entryCheck_multiply_dim2 (h0 : ∃ k, g.d0 = 2 ^ k) (h1 : g.d1 = c.lanes) (h2 : g.d2 ≠ c.lanes) :
    entryCheck c 0#4 g = .dim2 := by
  simp [entryCheck, isPow2_iff.mpr h0, h1, h2]

/-- With the dimensions in order, the address checks of the three regions decide. -/
theorem entryCheck_multiply_eq (h0 : ∃ k, g.d0 = 2 ^ k) (h1 : g.d1 = c.lanes) (h2 : g.d2 = c.lanes) :
    entryCheck c 0#4 g = addressCheck c (inputRegions c 0#4 g) (outputRegion c 0#4 g) := by
  simp [entryCheck, isPow2_iff.mpr h0, h1, h2]

theorem multiply_aligned_iff :
    Aligned c (inputRegions c 0#4 g ++ [outputRegion c 0#4 g]) ↔
      c.wordBytes ∣ g.a0 ∧ c.wordBytes ∣ g.a1 ∧ c.wordBytes ∣ g.a2 := by
  simp [Aligned, inputRegions, outputRegion, wordRegion]

theorem multiply_inSpace_iff :
    InSpace c (inputRegions c 0#4 g ++ [outputRegion c 0#4 g]) ↔
      g.a0 + g.d0 * c.wordBytes ≤ 2 ^ c.addrWidth ∧
        g.a1 + g.d2 * (g.d1 / c.lanes) * c.wordBytes ≤ 2 ^ c.addrWidth ∧
        g.a2 + g.d0 * c.wordBytes ≤ 2 ^ c.addrWidth := by
  simp [InSpace, inputRegions, outputRegion, wordRegion]

theorem multiply_sharesByte_iff :
    (∃ r ∈ inputRegions c 0#4 g, sharesByte r (outputRegion c 0#4 g)) ↔
      sharesByte (wordRegion c g.a2 g.d0) (wordRegion c g.a0 g.d0) ∨
        sharesByte (wordRegion c g.a2 g.d0) (wordRegion c g.a1 (g.d2 * (g.d1 / c.lanes))) := by
  simp [inputRegions, outputRegion, sharesByte, and_comm]

end

/-- Settles O7: each clause's premises single out one outcome of the checks, and that outcome gives the whole next
state. -/
theorem multiplyEntryChecks : Obligations.MultiplyEntryChecks := by
  intro s _ hb
  have failed {code : ErrCode} (he : entryCheck s.cfg 0#4 s.block.args = code) (hne : code ≠ .none) :
      exec .multiply s = .next (failedLaunch 0 code.byte s) := exec_of_failed_check hb he hne
  refine ⟨fun h0 => failed (entryCheck_multiply_dim0 h0) nofun, fun h0 =>
    ⟨fun h1 => failed (entryCheck_multiply_dim1 h0 h1) nofun, fun h1 =>
    ⟨fun h2 => failed (entryCheck_multiply_dim2 h0 h1 h2) nofun, fun h2 => ?_⟩⟩⟩
  have hcheck := entryCheck_multiply_eq h0 h1 h2
  refine ⟨fun h => failed (hcheck.trans (addressCheck_align (mt multiply_aligned_iff.mp h))) nofun, fun h => ?_⟩
  have ha := multiply_aligned_iff.mpr h
  refine ⟨fun h => failed (hcheck.trans (addressCheck_range ha (mt multiply_inSpace_iff.mp h))) nofun, fun h => ?_⟩
  have hr := multiply_inSpace_iff.mpr h
  refine ⟨fun h => failed (hcheck.trans (addressCheck_overlap ha hr (multiply_sharesByte_iff.mpr h))) nofun,
    fun h => ?_⟩
  exact exec_of_passed_check hb (hcheck.trans (addressCheck_none ha hr (mt multiply_sharesByte_iff.mp h)))

end Sys2Proof.Machine
end

/-!
### The multiply-reduce (42_multiply.md R159)
-/

section
namespace Sys2Proof.Machine

/-- Lane k read off by division and remainder. -/
theorem laneGet_toNat {dw w : Nat} (v : BitVec dw) (k : Nat) :
    (laneGet w v k).toNat = v.toNat / 2 ^ (w * k) % 2 ^ w := by
  rw [laneGet, BitVec.extractLsb'_toNat, Nat.shiftRight_eq_div_pow]

/-- Settles O57: the lanes are the word's digits in base 2^W; the rule's example is evaluated. -/
theorem dotTruncatesExactSum : Obligations.DotTruncatesExactSum := by
  refine ⟨fun c a b _ => ?_, by decide⟩
  simp only [dot, BitVec.toNat_ofNat, laneGet_toNat]

end Sys2Proof.Machine
end

/-!
### The control port (45_control_port.md R191 to R201)
-/

section
namespace Sys2Proof.Machine

/-! #### Admitted and refused transactions (R201) -/

/-- An aligned 32-bit transaction inside the control space is admitted. -/
theorem portRefusal_of_admitted {off : Nat} (ha : off % 4 = 0) (hr : off < 0x100) : portRefusal off 32 = none := by
  simp [portRefusal, ha, hr]

theorem portRefusal_width {off bits : Nat} (hw : bits ≠ 32) : portRefusal off bits = some (.portWidth bits) := by
  simp [portRefusal, hw]

theorem portRefusal_misaligned {off : Nat} (ha : off % 4 ≠ 0) : portRefusal off 32 = some (.portMisaligned off) := by
  simp [portRefusal, ha]

theorem portRefusal_offset {off : Nat} (ha : off % 4 = 0) (hr : 0x100 ≤ off) :
    portRefusal off 32 = some (.portOffset off) := by
  simp [portRefusal, ha, hr]

theorem portAccess_of_refusal {off bits : Nat} {r : Refusal} (h : portRefusal off bits = some r) (v : Reg) (s : State) :
    portWrite off bits v s = .refused r ∧ portRead off bits s = .refused r := by
  simp [portWrite, portRead, h]

theorem portRead_of_admitted {off : Nat} (ha : off % 4 = 0) (hr : off < 0x100) (s : State) :
    portRead off 32 s = .next (s.answer (.port off (portValue s.block off))) := by
  rw [portRead, portRefusal_of_admitted ha hr]

/-- Every admitted write but the one to CTRL is a plain register write. -/
theorem portWrite_of_admitted {off : Nat} (ha : off % 4 = 0) (hr : off < 0x100) (h0 : off ≠ 0) (v : Reg) (s : State) :
    portWrite off 32 v s = .next (writeOther off v s) := by
  rw [portWrite, portRefusal_of_admitted ha hr]
  exact if_neg h0

theorem writeOther_busy {off : Nat} {v : Reg} {s : State} (hb : s.block.status.busy = true) :
    writeOther off v s = s := by
  rw [writeOther, if_pos hb]

theorem writeOther_idle {off : Nat} {v : Reg} {s : State} (hb : s.block.status.busy = false) :
    writeOther off v s = s.setBlock (storeArg s.block off v) := by
  simp [writeOther, hb]

/-- A plain write that stores nothing is ignored, busy or idle. -/
theorem writeOther_of_storeArg_eq {off : Nat} {v : Reg} {s : State} (h : storeArg s.block off v = s.block) :
    writeOther off v s = s := by
  rw [writeOther, h]
  exact ite_self _

/-- Settles O22: the first of the three checks that fails names the refusal, for a write and for a read. -/
theorem inadmissibleAccessRefused : Obligations.InadmissibleAccessRefused := by
  intro s off bits v
  refine ⟨fun hw => portAccess_of_refusal (portRefusal_width hw) v s, ?_, ?_⟩
  · rintro rfl ha
    exact portAccess_of_refusal (portRefusal_misaligned ha) v s
  · rintro rfl ha hr
    exact portAccess_of_refusal (portRefusal_offset ha hr) v s

/-! #### CTRL (R191 to R194) -/

theorem writeCtrl_of_command {v : Reg} {i : Instr} (h : decode v = .command i) (s : State) :
    writeCtrl v s = .next (startCommand i.op s) := by
  rw [writeCtrl, h]
  exact exec_eq i s

/-- R193: a write to CTRL is ignored while BUSY, whatever its decoding. -/
theorem writeCtrl_busy {s : State} (hb : s.block.status.busy = true) (v : Reg) : writeCtrl v s = .next s := by
  cases hd : decode v with
  | command i => rw [writeCtrl_of_command hd, startCommand_busy hb]
  | reservedOp op => rw [writeCtrl_of_reservedOp hd, startCommand_busy hb]
  | noLaunch op => rw [writeCtrl_of_noLaunch hd, if_pos hb]

/-- Settles O12: every way a word reaches the block, and each command's launch, first looks at BUSY. -/
theorem commandWhileBusyIgnored : Obligations.CommandWhileBusyIgnored := by
  intro s v hb
  refine ⟨(portWrite_ctrl v s).trans (writeCtrl_busy hb v), fun i _ => ?_⟩
  rw [exec_eq, startCommand_busy hb]

/-- The OP field, put back in its place, is the word under the mask of bits 7:4. -/
theorem opField_in_place (v : Reg) : 0#24 ++ opField v ++ 0#4 = v &&& 0x000000F0#32 := by
  have hhigh : v.extractLsb' 8 24 ++ opField v = v.extractLsb' 4 28 :=
    BitVec.extractLsb'_append_extractLsb'_eq_extractLsb' rfl
  have hv : v.extractLsb' 4 28 ++ v.extractLsb' 0 4 = v :=
    (BitVec.extractLsb'_append_extractLsb'_eq_extractLsb' (x := v) rfl).trans BitVec.extractLsb'_eq_self
  calc 0#24 ++ opField v ++ 0#4
      = (v.extractLsb' 8 24 ++ opField v ++ v.extractLsb' 0 4) &&& (0#24 ++ BitVec.allOnes 4 ++ 0#4) := by
        rw [BitVec.and_append, BitVec.and_append, BitVec.and_zero, BitVec.and_zero, BitVec.and_allOnes]
    _ = v &&& 0x000000F0#32 := by
        rw [hhigh]
        exact congrArg (· &&& 0x000000F0#32) hv

/-- Settles O14: a word without START decodes to its OP alone, which CTRL then reads back in its place. -/
theorem ctrlWriteWithoutStart : Obligations.CtrlWriteWithoutStart := by
  intro s v hb hv
  refine ⟨?_, opField_in_place v⟩
  rw [portWrite_ctrl, writeCtrl_of_noLaunch (decode_of_no_start hv), hb]
  rfl

/-- Settles O15: the value read is OP followed by four zero bits. -/
theorem ctrlReadReturnsOp : Obligations.CtrlReadReturnsOp := by
  intro s
  have hval : ∀ op : BitVec 4, (0#24 ++ op ++ 0#4).toNat = 16 * op.toNat := by decide
  exact ⟨0#24 ++ s.block.op ++ 0#4, portRead_of_admitted rfl (by decide) s, hval s.block.op⟩

/-! #### The argument registers (R197, R198) -/

/-- The offsets of the ARG and DIM registers (10_state.md R21). -/
def argOffsets : List Nat := [0x10, 0x14, 0x18, 0x1C, 0x20, 0x24, 0x28, 0x2C, 0x30]

/-- Every ARG or DIM offset is admitted and is not CTRL's. -/
theorem argOffsets_admitted : ∀ off ∈ argOffsets, off % 4 = 0 ∧ off < 0x100 ∧ off ≠ 0 := by decide

/-- A stored argument is read back. -/
theorem portValue_storeArg_same {c : Config} (b : Block c) {off : Nat} (v : Reg) (h : off ∈ argOffsets) :
    portValue (storeArg b off v) off = v := by
  simp only [argOffsets, List.mem_cons, List.not_mem_nil, or_false] at h
  obtain rfl | rfl | rfl | rfl | rfl | rfl | rfl | rfl | rfl := h <;> rfl

/-- A plain write leaves what every other offset reads. -/
theorem portValue_storeArg_other {c : Config} (b : Block c) {off off' : Nat} (v : Reg) (h : off' ≠ off) :
    portValue (storeArg b off v) off' = portValue b off' := by
  unfold storeArg
  split_ifs <;> subst_vars <;> simp [portValue, h]

/-- Settles O18: the write is `storeArg` of the idle block, whose reads and frame the lemmas about it give. -/
theorem argumentWrite : Obligations.ArgumentWrite := by
  intro s off v h
  obtain ⟨ha, hr, h0⟩ := argOffsets_admitted off h
  rw [portWrite_of_admitted ha hr h0]
  refine ⟨fun hb => ?_, fun hb => ⟨storeArg s.block off v, ?_, portValue_storeArg_same s.block v h,
    fun _ => portValue_storeArg_other s.block v, storeArg_frame s.block off v⟩⟩
  · rw [writeOther_busy hb]
  · rw [writeOther_idle hb]

/-- Settles O19: each of the nine offsets is admitted and `portValue` picks its register. -/
theorem argumentRead : Obligations.ArgumentRead := by
  intro s
  have read {off : Nat} (h : off ∈ argOffsets) :
      portRead off 32 s = .next (s.answer (.port off (portValue s.block off))) :=
    portRead_of_admitted (argOffsets_admitted off h).1 (argOffsets_admitted off h).2.1 s
  exact ⟨read (off := 0x10) (by decide), read (off := 0x14) (by decide), read (off := 0x18) (by decide),
    read (off := 0x1C) (by decide), read (off := 0x20) (by decide), read (off := 0x24) (by decide),
    read (off := 0x28) (by decide), read (off := 0x2C) (by decide), read (off := 0x30) (by decide)⟩

/-! #### Unmapped offsets (R199) -/

/-- An offset of the control space that no register has. -/
def Unmapped (off : Nat) : Prop := off = 0x08 ∨ off = 0x0C ∨ (0x34 ≤ off ∧ off ≤ 0xFC)

theorem portValue_unmapped {c : Config} (b : Block c) {off : Nat} (h : Unmapped off) : portValue b off = 0 := by
  unfold Unmapped at h
  simp (disch := omega) only [portValue, if_neg]

theorem storeArg_unmapped {c : Config} (b : Block c) {off : Nat} (v : Reg) (h : Unmapped off) :
    storeArg b off v = b := by
  unfold Unmapped at h
  simp (disch := omega) only [storeArg, if_neg]

/-- Settles O20: the access is admitted, and no register is at the offset. -/
theorem unmappedOffset : Obligations.UnmappedOffset := by
  intro s off v ha h
  have hr : off < 0x100 := by omega
  have h0 : off ≠ 0 := by omega
  rw [portRead_of_admitted ha hr, portWrite_of_admitted ha hr h0, portValue_unmapped s.block h,
    writeOther_of_storeArg_eq (storeArg_unmapped s.block v h)]
  exact ⟨rfl, rfl⟩

/-! #### What a transaction leaves of the block and the machine (R200) -/

/-- The counters and the data path stay, and the sequencer stays, goes idle or is armed. -/
def PortFrame {c : Config} (b b' : Block c) : Prop :=
  b'.i = b.i ∧ b'.j = b.j ∧ b'.aCur = b.aCur ∧ b'.aNext = b.aNext ∧ b'.bCur = b.bCur ∧ b'.bNext = b.bNext ∧
  b'.outWord = b.outWord ∧ (b'.fsm = b.fsm ∨ b'.fsm = .idle ∨ b'.fsm = .mulInit ∨ b'.fsm = .trnRun)

theorem portFrame_refl {c : Config} (b : Block c) : PortFrame b b := ⟨rfl, rfl, rfl, rfl, rfl, rfl, rfl, .inl rfl⟩

theorem portFrame_setOp {c : Config} (b : Block c) (op : BitVec 4) : PortFrame b { b with op := op } :=
  ⟨rfl, rfl, rfl, rfl, rfl, rfl, rfl, .inl rfl⟩

theorem portFrame_launch {c : Config} (op : BitVec 4) (b : Block c) : PortFrame b (launch op b) := by
  obtain ⟨-, hl⟩ | ⟨-, hl⟩ := launch_cases op b
  · rw [hl]
    refine ⟨rfl, rfl, rfl, rfl, rfl, rfl, rfl, ?_⟩
    by_cases h : op = 0#4
    · exact .inr (.inr (.inl (if_pos h)))
    · exact .inr (.inr (.inr (if_neg h)))
  · rw [hl]
    exact ⟨rfl, rfl, rfl, rfl, rfl, rfl, rfl, .inr (.inl rfl)⟩

theorem portFrame_storeArg {c : Config} (b : Block c) (off : Nat) (v : Reg) : PortFrame b (storeArg b off v) := by
  obtain ⟨-, -, hf, hi, hj, hac, han, hbc, hbn, ho⟩ := storeArg_frame b off v
  exact ⟨hi, hj, hac, han, hbc, hbn, ho, .inl hf⟩

/-- A write transaction changes the block's registers within `PortFrame` and the taint mark, and nothing else. -/
theorem portWrite_frame {off bits : Nat} {v : Reg} {s t : State} (h : portWrite off bits v s = .next t) :
    ∃ (b : Block s.cfg) (tnt : Bool), t = (s.setBlock b).setTainted tnt ∧ PortFrame s.block b := by
  obtain rfl | ⟨-, op, rfl⟩ | ⟨-, op, rfl⟩ | ⟨-, rfl⟩ := portWrite_next h
  · exact ⟨t.block, t.tainted, rfl, portFrame_refl t.block⟩
  · exact ⟨_, s.tainted, rfl, portFrame_setOp s.block op⟩
  · exact ⟨_, false, rfl, portFrame_launch op s.block⟩
  · exact ⟨_, s.tainted, rfl, portFrame_storeArg s.block off v⟩

/-- Settles O21: a port line is a write, which keeps `PortFrame`, or a read, which keeps the block. -/
theorem portTransactionsLeaveMemoryAlone : Obligations.PortTransactionsLeaveMemoryAlone := by
  intro s t l hw hr h
  obtain ⟨off, bits, v, h⟩ | ⟨off, ls, rfl⟩ | ⟨a, bytes, hl, -⟩ | ⟨a, n, hl, -⟩ := hostLine_next h
  · obtain ⟨b, tnt, rfl, hb⟩ := portWrite_frame h
    exact ⟨rfl, rfl, rfl, b, ⟨s.program, s.answers, tnt, rfl⟩, hb⟩
  · exact ⟨rfl, rfl, rfl, s.block, ⟨ls, _, s.tainted, rfl⟩, portFrame_refl s.block⟩
  · exact absurd hl (hw a bytes)
  · exact absurd hl (hr a n)

/-! #### STATUS (R196) -/

/-- A block turn keeps STATUS or completes the command. -/
theorem blockTurn_status (s : State) :
    (blockTurn s).block.status = s.block.status ∨ (blockTurn s).block.status = Status.completed := by
  by_cases hf : s.block.fsm = .idle
  · rw [blockTurn_idle hf]
    exact .inl rfl
  have hstep : (microStep s).block.status = s.block.status ∨ (microStep s).block.status = Status.completed := by
    rw [microStep_eq]
    obtain ⟨-, -, ⟨hs, -⟩ | ⟨hs, -⟩⟩ := nextBlock_frame s.mem s.block hf
    · exact .inl hs
    · exact .inr hs
  obtain ⟨-, ht⟩ | ⟨r, -, -, ht⟩ | ⟨r, -, -, ht⟩ := blockTurn_cases s
  · rw [ht]
    exact hstep
  · rw [ht]
    exact hstep
  · rw [ht]
    exact .inl rfl

/-- A write to CTRL keeps STATUS, or it has START = 1 and the block is idle. -/
theorem writeCtrl_status {v : Reg} {s t : State} (h : writeCtrl v s = .next t) :
    t.block.status = s.block.status ∨ (startField v = true ∧ s.block.status.busy = false) := by
  cases hb : s.block.status.busy with
  | true =>
    rw [writeCtrl_busy hb] at h
    cases h
    exact .inl rfl
  | false =>
    cases hv : startField v with
    | true => exact .inr ⟨rfl, rfl⟩
    | false =>
      rw [writeCtrl_of_noLaunch (decode_of_no_start hv), hb] at h
      cases h
      exact .inl rfl

theorem writeOther_status (off : Nat) (v : Reg) (s : State) : (writeOther off v s).block.status = s.block.status := by
  cases hb : s.block.status.busy with
  | true => rw [writeOther_busy hb]
  | false =>
    obtain ⟨-, hs, -⟩ := storeArg_frame s.block off v
    rw [writeOther_idle hb]
    exact hs

/-- A write transaction keeps STATUS, or it writes START = 1 to CTRL of an idle block. -/
theorem portWrite_status {off bits : Nat} {v : Reg} {s t : State} (h : portWrite off bits v s = .next t) :
    t.block.status = s.block.status ∨
      (off = 0x00 ∧ bits = 32 ∧ startField v = true ∧ s.block.status.busy = false) := by
  by_cases hw : bits = 32
  · subst hw
    by_cases h0 : off = 0x00
    · subst h0
      exact (writeCtrl_status h).imp_right fun ⟨hv, hb⟩ => ⟨rfl, rfl, hv, hb⟩
    · unfold portWrite at h
      split at h
      · nomatch h
      · rw [if_neg h0] at h
        cases h
        exact .inl (writeOther_status off v s)
  · rw [(portAccess_of_refusal (portRefusal_width hw) v s).1] at h
    nomatch h

/-- R59: a bus write that answers is the port write at its distance from CTRL_BASE. -/
theorem busWrite_next {a bits : Nat} {v : Reg} {s t : State} (h : busWrite a bits v s = .next t) :
    ∃ off, a = s.cfg.ctrlBase + off ∧ portWrite off bits v s = .next t := by
  unfold busWrite at h
  split at h
  · next off ho =>
    unfold portOffset at ho
    split at ho
    · next hr =>
      cases ho
      exact ⟨a - s.cfg.ctrlBase, by omega, h⟩
    · nomatch ho
  · nomatch h

/-- A broken duty (R267) costs output words, never STATUS. -/
theorem breakDuty_block_status (r : Region) (s : State) : (breakDuty r s).block.status = s.block.status := by
  obtain ⟨-, h⟩ | ⟨-, -, h⟩ | ⟨-, -, -, h⟩ | ⟨-, -, -, h⟩ := breakDuty_cases r s <;> rw [h] <;> rfl

/-- The line writes START = 1 to CTRL, by its offset or by its bus address. -/
def IsLaunchLine (c : Config) (l : HostLine) : Prop :=
  ∃ v, startField v = true ∧ (l = .wr 0x00 32 v ∨ l = .busWr c.ctrlBase 32 v)

/-- A line of the host's program keeps STATUS, or it is a launch of an idle block. -/
theorem hostLine_status {l : HostLine} {s t : State} (h : hostLine l s = .next t) :
    t.block.status = s.block.status ∨ (IsLaunchLine s.cfg l ∧ s.block.status.busy = false) := by
  cases l with
  | wr off bits v =>
    obtain hs | ⟨rfl, rfl, hv, hb⟩ := portWrite_status h
    · exact .inl hs
    · exact .inr ⟨⟨v, hv, .inl rfl⟩, hb⟩
  | busWr a bits v =>
    obtain ⟨off, rfl, hw⟩ := busWrite_next h
    obtain hs | ⟨rfl, rfl, hv, hb⟩ := portWrite_status hw
    · exact .inl hs
    · exact .inr ⟨⟨v, hv, .inr rfl⟩, hb⟩
  | rd off bits =>
    rw [portRead_next h]
    exact .inl rfl
  | busRd a bits =>
    simp only [hostLine, busRead] at h
    split at h
    · rw [portRead_next h]
      exact .inl rfl
    · nomatch h
  | poll off mask val =>
    simp only [hostLine, pollOnce] at h
    split at h
    all_goals
      rw [portRead_next h]
      exact .inl rfl
  | memWr a bytes =>
    rw [(hostWrite_next h).2]
    exact .inl (breakDuty_block_status _ _)
  | memRd a n =>
    rw [(hostRead_next h).2]
    exact .inl rfl

/-- A host turn keeps STATUS, or its line is a launch of an idle block. -/
theorem hostTurn_status {s t : State} (h : hostTurn s = .next t) :
    t.block.status = s.block.status ∨
      (s.block.status.busy = false ∧ ∃ l, s.program.head? = some l ∧ IsLaunchLine s.cfg l) := by
  unfold hostTurn at h
  split at h
  · cases h
    exact .inl rfl
  · next l ls hp =>
    refine (hostLine_status h).imp_right fun ⟨hl, hb⟩ => ⟨hb, l, ?_, hl⟩
    rw [hp]
    rfl

/-- Settles O17: no register is at STATUS for a plain write; a block turn keeps STATUS or sets DONE; a host turn keeps
it or launches. -/
theorem statusClearedOnlyByLaunchOrReset : Obligations.StatusClearedOnlyByLaunchOrReset := by
  refine ⟨fun s v => ?_, fun s _ => ⟨fun hd => ?_, fun he hf => ?_, fun t ht hc => ?_⟩⟩
  · rw [portWrite_of_admitted rfl (by decide) (by decide), writeOther_of_storeArg_eq rfl]
  · obtain hs | hs := blockTurn_status s
    · rw [hs, hd]
    · rw [hs, Status.completed_done]
  · rw [blockTurn_idle hf, he]
  · obtain hs | ⟨hb, l, hl, v, hv, hw⟩ := hostTurn_status ht
    · rw [hs] at hc
      exact absurd hc (by simp +contextual)
    · refine ⟨v, hv, hb, ?_⟩
      rw [hl]
      exact hw.imp (congrArg some) (congrArg some)

end Sys2Proof.Machine
end

/-!
### Errors and completions (60_exceptions.md R222, R223, R230, R232, R236)
-/

section
namespace Sys2Proof.Machine

/-! #### The error a launch reports (R223, R230) -/

/-- A launch that fails its checks is the error completion with the code they give, whatever OP it names. -/
theorem startCommand_of_failed_check {op : BitVec 4} {s : State} {code : ErrCode} (hb : s.block.status.busy = false)
    (he : entryCheck s.cfg op s.block.args = code) (hne : code ≠ .none) :
    startCommand op s = failedLaunch op code.byte s := by
  rw [startCommand_idle hb]
  obtain ⟨hn, -⟩ | ⟨-, hl⟩ := launch_cases op s.block
  · exact absurd (he.symm.trans hn) hne
  · rw [hl, he]
    rfl

/-- ERRCODE after a launch is the result of the checks, E_NONE as 0 included. -/
theorem launch_errcode {c : Config} (op : BitVec 4) (b : Block c) :
    (launch op b).status.errcode = (entryCheck c op b.args).byte := by
  obtain ⟨hn, hl⟩ | ⟨-, hl⟩ := launch_cases op b
  · rw [hl, hn]
    rfl
  · rw [hl]
    rfl

theorem ErrCode.eq_dim0_of_byte {code : ErrCode} (h : code.byte = 2) : code = .dim0 := by
  cases code
  case dim0 => rfl
  all_goals exact absurd h (by decide)

/-- The address checks report alignment, range or overlap. -/
theorem addressCheck_ne_dim0 (c : Config) (inputs : List Region) (out : Region) :
    addressCheck c inputs out ≠ .dim0 := by
  unfold addressCheck
  split_ifs <;> nofun

/-- Both commands check DIM0 first, and no later check reports it. -/
theorem entryCheck_eq_dim0_iff {c : Config} {i : Instr} {g : Args} :
    entryCheck c i.op g = .dim0 ↔ ¬ ∃ k, g.d0 = 2 ^ k := by
  refine ⟨fun he h0 => ?_, fun h0 => ?_⟩
  · cases i with
    | multiply =>
      by_cases h1 : g.d1 = c.lanes
      · by_cases h2 : g.d2 = c.lanes
        · exact addressCheck_ne_dim0 _ _ _ ((entryCheck_multiply_eq h0 h1 h2).symm.trans he)
        · exact nomatch (entryCheck_multiply_dim2 h0 h1 h2).symm.trans he
      · exact nomatch (entryCheck_multiply_dim1 h0 h1).symm.trans he
    | transpose =>
      by_cases h1 : ∃ k, g.d1 = 2 ^ k
      · by_cases h2 : g.d0 * g.d1 % c.lanes = 0
        · exact addressCheck_ne_dim0 _ _ _ ((entryCheck_transpose_eq h0 h1 h2).symm.trans he)
        · exact nomatch (entryCheck_transpose_shape h0 h1 h2).symm.trans he
      · exact nomatch (entryCheck_transpose_dim1 h0 h1).symm.trans he
  · cases i with
    | multiply => exact entryCheck_multiply_dim0 h0
    | transpose => exact entryCheck_transpose_dim0 h0

/-- A power of two held in a 32-bit register is one of 2^0 to 2^31. -/
theorem exponent_le_of_toNat_eq_two_pow {v : Reg} {k : Nat} (h : v.toNat = 2 ^ k) : k ≤ 31 := by
  have hlt : 2 ^ k < 2 ^ 32 := h ▸ v.isLt
  exact Nat.le_of_lt_succ ((Nat.pow_lt_pow_iff_right (by decide)).mp hlt)

/-- Settles O9: the checks give E_DIM0 exactly when DIM0 is no power of two, and ERRCODE is what they give. -/
theorem dim0MustBePowerOfTwo : Obligations.Dim0MustBePowerOfTwo := by
  intro s i _ hb
  refine ⟨fun h => ?_, fun k _ hk t ht => ?_⟩
  · have h0 : ¬ ∃ k, s.block.args.d0 = 2 ^ k := fun ⟨k, hk⟩ => h k (exponent_le_of_toNat_eq_two_pow hk) hk
    exact exec_of_failed_check hb (entryCheck_eq_dim0_iff.mpr h0) nofun
  · rw [exec_eq, startCommand_idle hb] at ht
    obtain rfl := Host.Outcome.next.inj ht
    intro hcode
    have he := ErrCode.eq_dim0_of_byte ((launch_errcode i.op s.block).symm.trans hcode)
    exact entryCheck_eq_dim0_iff.mp he ⟨k, hk⟩

/-! #### A word with START = 1 (R222, R230) -/

/-- A word with START = 1 launches the OP it names, defined or reserved. -/
theorem writeCtrl_of_start {v : Reg} (h : startField v = true) (s : State) :
    writeCtrl v s = .next (startCommand (opField v) s) := by
  by_cases h0 : opField v = 0#4
  · have hd : decode v = .command .multiply := by rw [decode_of_start h, if_pos h0]
    rw [writeCtrl_of_command hd, h0]
    rfl
  by_cases h1 : opField v = 1#4
  · have hd : decode v = .command .transpose := by rw [decode_of_start h, if_neg h0, if_pos h1]
    rw [writeCtrl_of_command hd, h1]
    rfl
  · rw [writeCtrl_of_reservedOp (decode_of_reserved_op h h0 h1)]

/-- OP and STATUS are read at CTRL and STATUS only, and fsm nowhere. -/
theorem portValue_of_not_control {c : Config} (b : Block c) (op : BitVec 4) (st : Status) (f : Fsm) {off : Nat}
    (h0 : off ≠ 0x00) (h4 : off ≠ 0x04) :
    portValue { b with op := op, status := st, fsm := f } off = portValue b off := by
  simp [portValue, h0, h4]

/-- Settles O11: the write launches OP, and a failed launch replaces OP, STATUS and fsm alone. -/
theorem errorCompletion : Obligations.ErrorCompletion := by
  intro s v code hb hv hne he
  refine ⟨(failedLaunch (opField v) code.byte s).block, ?_, rfl, rfl, rfl, rfl, rfl, rfl,
    fun off h0 h4 => portValue_of_not_control s.block _ _ _ h0 h4, rfl, rfl, rfl, rfl, rfl, rfl, rfl⟩
  have hl : startCommand (opField v) s = failedLaunch (opField v) code.byte s :=
    startCommand_of_failed_check hb he hne
  exact (writeCtrl_of_start hv s).trans (congrArg Host.Outcome.next hl)

/-! #### Normal completion (R232) -/

/-- MUL_FLUSH of the last row and TRN_RUN complete the command. -/
theorem nextBlock_of_last_step {c : Config} {b : Block c} (m : Mem)
    (h : (b.fsm = .mulFlush ∧ b.args.d0 ≤ b.i.toNat + 1) ∨ b.fsm = .trnRun) : nextBlock m b = complete b := by
  obtain ⟨hf, hi⟩ | hf := h
  · rw [nextBlock_mulFlush hf, mulFlushBlock_of_last (Nat.not_lt.mpr hi)]
  · exact nextBlock_trnRun hf

/-- Settles O28: the step that makes the request is the one that completes. -/
theorem normalCompletion : Obligations.NormalCompletion := by
  intro s r hr ha hlast
  rw [blockTurn_of_request hr ha, microStep_eq, nextBlock_of_last_step s.mem hlast]
  exact ⟨rfl, rfl, rfl, rfl, rfl, rfl⟩

/-! #### A refused request (R236) -/

/-- The host's memory, lines and answers and the model's own marks may differ; the configuration, the block's registers,
the schedule and the requests made are the same. -/
def SameBlock (s t : State) : Prop :=
  ∃ (m : Mem) (ls : List HostLine) (as : List Answer) (tnt : Bool) (n : Nat),
    t = { s with mem := m, program := ls, answers := as, tainted := tnt, fresh := n }

theorem sameBlock_refl (s : State) : SameBlock s s := ⟨s.mem, s.program, s.answers, s.tainted, s.fresh, rfl⟩

theorem sameBlock_setProgram {s t : State} {ls : List HostLine} (h : SameBlock (s.setProgram ls) t) : SameBlock s t := h

theorem sameBlock_breakDuty (r : Region) (s : State) (m : Mem) : SameBlock s (breakDuty r (s.setMem m)) := by
  obtain ⟨-, h⟩ | ⟨-, -, h⟩ | ⟨-, -, -, h⟩ | ⟨-, -, -, h⟩ := breakDuty_cases r (s.setMem m)
  all_goals
    rw [h]
    exact ⟨_, _, _, _, _, rfl⟩

/-- While BUSY no write transaction changes anything. -/
theorem portWrite_busy {off bits : Nat} {v : Reg} {s t : State} (hb : s.block.status.busy = true)
    (h : portWrite off bits v s = .next t) : t = s := by
  obtain rfl | ⟨hi, -⟩ | ⟨hi, -⟩ | ⟨hi, -⟩ := portWrite_next h
  · rfl
  all_goals exact absurd (hb.symm.trans hi) nofun

/-- While BUSY no line of the host's program reaches the block's registers. -/
theorem hostLine_busy {l : HostLine} {s t : State} (hb : s.block.status.busy = true) (h : hostLine l s = .next t) :
    SameBlock s t := by
  obtain ⟨off, bits, v, h⟩ | ⟨off, ls, rfl⟩ | ⟨a, bytes, -, h⟩ | ⟨a, n, -, h⟩ := hostLine_next h
  · rw [portWrite_busy hb h]
    exact sameBlock_refl s
  · exact ⟨_, _, _, _, _, rfl⟩
  · rw [(hostWrite_next h).2]
    exact sameBlock_breakDuty _ s _
  · rw [(hostRead_next h).2]
    exact ⟨_, _, _, _, _, rfl⟩

theorem hostTurn_busy {s t : State} (hb : s.block.status.busy = true) (h : hostTurn s = .next t) : SameBlock s t := by
  unfold hostTurn at h
  split at h
  · cases h
    exact sameBlock_refl s
  · next ls _ => exact sameBlock_setProgram (hostLine_busy (s := s.setProgram ls) hb h)

/-- The registers, the platform and the configuration decide whether the block is stuck. -/
theorem SameBlock.stuck_eq {s t : State} (h : SameBlock s t) : stuck t = stuck s ∧ t.block.fsm = s.block.fsm := by
  obtain ⟨_, _, _, _, _, rfl⟩ := h
  exact ⟨rfl, rfl⟩

theorem stuck_iff {s : State} :
    stuck s = true ↔ s.block.status.busy = true ∧ ∃ r, nextRequest s.block = some r ∧ admits s.cfg r = false := by
  unfold stuck
  cases nextRequest s.block <;> simp

theorem blockTurn_of_refused {s : State} {r : Request} (hr : nextRequest s.block = some r)
    (ha : admits s.cfg r = false) : blockTurn s = s := by
  simp [blockTurn, hr, ha]

/-- Settles O30: the block has no step, and a host turn leaves the registers of a BUSY block as they are. -/
theorem stuckUntilReset : Obligations.StuckUntilReset := by
  intro s hs
  obtain ⟨hb, r, hr, ha⟩ := stuck_iff.mp hs
  refine ⟨blockTurn_of_refused hr ha, fun t ht => ?_, rfl, rfl⟩
  obtain ⟨hstuck, hfsm⟩ := (hostTurn_busy hb ht).stuck_eq
  exact ⟨hstuck.trans hs, hfsm⟩

/-! #### A reserved OP (R222) -/

/-- Settles O10: the write launches OP, and the launch of a reserved OP is the E_OP error. -/
theorem reservedOpRaisesError : Obligations.ReservedOpRaisesError := by
  intro s v hb hv hop
  replace hop : 2 ≤ (opField v).toNat := hop
  have h0 : opField v ≠ 0#4 := by bv_omega
  have h1 : opField v ≠ 1#4 := by bv_omega
  rw [portWrite_ctrl, writeCtrl_of_start hv, startCommand_of_reserved_op hb h0 h1]
  rfl

end Sys2Proof.Machine
end

/-!
### Reset while a command runs (10_state.md R41, 70_reset_and_hazards.md R260, R261)
-/

section
namespace Sys2Proof.Machine

/-! #### The control registers (R41, R260) -/

@[simp] theorem Block.reset_status_word (c : Config) : (Block.reset c).status.word = 0 := by
  simp [Block.reset, Status.word]

/-- After reset every control offset reads 0 (R41), because each branch of `portValue` is 0. -/
theorem portValue_reset (c : Config) (off : Nat) : portValue (Block.reset c) off = 0 := by
  have hctrl : 0#24 ++ (Block.reset c).op ++ 0#4 = 0#32 := by simp [Block.reset]
  rw [portValue, hctrl, Block.reset_status_word]
  simp only [Block.reset, BitVec.ofNat_eq_ofNat, ite_self]

/-- A reset event frees the counters and the data path only, and the port reads none of them. -/
theorem portValue_resetBlock (c : Config) (n off : Nat) : portValue (resetBlock c n) off = 0 :=
  portValue_reset c off

/-! #### A region given any value -/

theorem freeBytes_getD {k n b : Nat} (h : b < n) : (freeBytes k n).getD b 0 = Config.freeValue 8 (k + b) := by
  simp [freeBytes, h]

section
variable {s : State} {r : Region} {y : Nat} (hm : s.mem.wf = true)
include hm

theorem readByte_havoc_of_mem (hy : inRegion r y = true) :
    (s.havoc r).mem.readByte y = Config.freeValue 8 (s.fresh + (y - r.base)) := by
  have hin := inRegion_iff.mp hy
  rw [State.havoc_mem, Mem.readByte_writeBytes hm, freeBytes_length, if_pos hin, freeBytes_getD (by omega)]

theorem readByte_havoc_of_not_mem (hy : inRegion r y = false) : (s.havoc r).mem.readByte y = s.mem.readByte y := by
  have hout : ¬(r.base ≤ y ∧ y < r.base + r.len) := fun h => Bool.eq_false_iff.mp hy (inRegion_iff.mpr h)
  rw [State.havoc_mem, Mem.readByte_writeBytes hm, freeBytes_length, if_neg hout]

end

/-! #### The region a reset leaves at any value (R261) -/

theorem abortedRegion_of_busy {s : State} (hb : s.block.status.busy = true) : abortedRegion s = runningOutput s := by
  rw [abortedRegion, if_pos hb]

theorem abortedRegion_len_of_idle {s : State} (hb : s.block.status.busy = false) : (abortedRegion s).len = 0 := by
  rw [abortedRegion, hb]
  rfl

theorem havoc_mem_of_empty (s : State) {r : Region} (h : r.len = 0) : (s.havoc r).mem = s.mem := by
  rw [State.havoc_mem, h]
  rfl

theorem resetTurn_mem (s : State) : (resetTurn s).mem = (s.havoc (abortedRegion s)).mem := rfl

/-- Settles O45: the reset block's registers, and memory by whether a command's output region is given any value. -/
theorem resetAbortsCommand : Obligations.ResetAbortsCommand := by
  intro s hm
  refine ⟨fun off => portValue_resetBlock s.cfg _ off, rfl, rfl, fun hb y => ?busy, fun hb => ?idle⟩
  case busy =>
    rw [resetTurn_mem, abortedRegion_of_busy hb]
    exact ⟨readByte_havoc_of_mem hm, readByte_havoc_of_not_mem hm⟩
  case idle =>
    rw [resetTurn_mem, havoc_mem_of_empty s (abortedRegion_len_of_idle hb)]

end Sys2Proof.Machine
end

/-!
### Encoding and decoding a command word, and the step that runs it (30_encoding.md R80 to R84, R91)
-/

section
namespace Sys2Proof.Machine

/-- Words that agree in START and OP agree under the mask (R83). -/
theorem and_decodeMask_eq_of_fields_eq {v w : Reg} (hs : startField v = startField w) (ho : opField v = opField w) :
    v &&& decodeMask = w &&& decodeMask := by
  have split (u : Reg) : u &&& decodeMask =
      (0#24 ++ opField u ++ 0#4) ||| (BitVec.ofBool (startField u)).setWidth 32 := by
    rw [opField_in_place, startField, ← BitVec.and_one_eq_setWidth_ofBool_getLsbD, ← BitVec.and_or_distrib_left]
    rfl
  rw [split v, split w, hs, ho]

theorem commandWord_statement (i : Instr) : Laws.CommandWord.Statement i := by
  cases i with
  | multiply => exact Laws.CommandWord.multiply
  | transpose => exact Laws.CommandWord.transpose

/-- R82: a word decodes to a command exactly when START is 1 and OP is the command's. -/
theorem decode_eq_command_iff {v : Reg} {i : Instr} :
    decode v = .command i ↔ startField v = true ∧ opField v = i.op := by
  refine ⟨fun h => ?_, fun ⟨hs, ho⟩ => ?_⟩
  · cases hs : startField v with
    | false => nomatch (decode_of_no_start hs).symm.trans h
    | true =>
      rw [decode_of_start hs] at h
      split_ifs at h with h0 h1
      · cases h
        exact ⟨rfl, h0⟩
      · cases h
        exact ⟨rfl, h1⟩
  · obtain ⟨-, -, hdecode⟩ := commandWord_statement i
    exact hdecode v hs ho

/-- The encoding of a command carries START = 1 and the command's OP. -/
theorem encode_fields (i : Instr) : startField (encode i) = true ∧ opField (encode i) = i.op := by
  cases i <;> decide

/-- The encoding of a command has no reserved bit. -/
theorem encode_and_decodeMask (i : Instr) : encode i &&& decodeMask = encode i := by
  cases i <;> decide

/-- Settles O3: decoding to a command fixes the two fields, which fix the word under the mask. -/
theorem decodeAgreesWithEncode : Obligations.DecodeAgreesWithEncode := by
  intro i v _
  rw [decode_eq_command_iff]
  constructor
  · rintro ⟨hs, ho⟩
    obtain ⟨hs', ho'⟩ := encode_fields i
    rw [and_decodeMask_eq_of_fields_eq (hs.trans hs'.symm) (ho.trans ho'.symm), encode_and_decodeMask]
  · intro h
    rw [← startField_and_decodeMask, ← opField_and_decodeMask, h]
    exact encode_fields i

/-- Settles O4: the decoder is run on each of the seven words. -/
theorem handWrittenWordsDecode : Obligations.HandWrittenWordsDecode := by
  unfold Obligations.HandWrittenWordsDecode
  decide

/-- A line that writes a command's word to CTRL is the command (R192). -/
theorem hostLine_of_command {v : Reg} {i : Instr} (h : decode v = .command i) (s : State) :
    hostLine (.wr 0x00 32 v) s = exec i s := by
  rw [hostLine, portWrite_ctrl, writeCtrl_of_command h, exec_eq]

theorem hostTurn_of_line {s : State} {l : HostLine} {ls : List HostLine} (h : s.program = l :: ls) :
    hostTurn s = hostLine l (s.setProgram ls) := by
  rw [hostTurn, h]

theorem step_of_scheduled {s : State} {u : Turn} {ts : List Turn} (h : s.schedule = u :: ts) :
    step s = turn u (s.setSchedule ts) := by
  rw [step, h]

/-- With the schedule used up and the block idle, the host moves (log 8). -/
theorem step_of_idle {s : State} (hq : s.schedule = []) (hb : s.block.status.busy = false) : step s = hostTurn s := by
  simp [step, hq, unscheduledTurn, hb, turn]

/-- Settles O5: either way the step is the host's turn, its line is the write, and the write is the command. -/
theorem stepRunsDecodedCommand : Obligations.StepRunsDecodedCommand := by
  refine ⟨fun s ts ls v i hq hp hd => ?_, fun s ls v i hq hb hp hd => ?_⟩
  · have hp' : (s.setSchedule ts).program = .wr 0x00 32 v :: ls := hp
    rw [step_of_scheduled hq, turn, hostTurn_of_line hp', hostLine_of_command hd]
  · rw [step_of_idle hq hb, hostTurn_of_line hp, hostLine_of_command hd]

/-- The word a table entry stands for decodes to its command. -/
theorem decode_of_decodeTableWord {nbits w : Nat} {i : Instr} (h : decodeTableWord nbits w = some i) :
    decode (BitVec.ofNat 32 (w % 2 ^ nbits)) = .command i := by
  unfold decodeTableWord at h
  split at h
  · split at h
    · next hd => exact hd.trans (congrArg _ (Option.some.inj h))
    · nomatch h
  · nomatch h

/-- Settles O6: the placed turn is the host's and the placed line is the write; taken off, they leave the state. -/
theorem placedWordRunsNext : Obligations.PlacedWordRunsNext :=
  fun s _ _ i _ h => stepRunsDecodedCommand.1 _ s.schedule s.program _ i rfl rfl (decode_of_decodeTableWord h)

end Sys2Proof.Machine
end

/-!
### The request sequence of MULTIPLY (42_multiply.md R158)
-/

section
namespace Sys2Proof.Machine

/-! #### The requests a running command still makes -/

section
variable (c : Config) (g : Args)

/-- The prefetches of the columns after column j of a row. -/
def prefetchesFrom (j : Nat) : List Request :=
  (List.range' j (g.d2 - j)).flatMap fun k => if k + 1 < g.d2 then [.read (g.a1 + (k + 1) * c.wordBytes)] else []

/-- The requests of the rows from row i on. -/
def rowsFrom (i : Nat) : List Request := (List.range' i (g.d0 - i)).flatMap (rowRequests c g)

/-- The requests from row i, column j and a sequencer state on. -/
def requestsFrom (i j : Nat) : Fsm → List Request
  | .idle => []
  | .mulInit => mulRequests c g
  | .mulRow => rowsFrom c g i
  | .mulBload => .read g.a1 :: columnPrefetches c g ++ .write (cWordAddr c g i) :: rowsFrom c g (i + 1)
  | .mulCol => prefetchesFrom c g j ++ .write (cWordAddr c g i) :: rowsFrom c g (i + 1)
  | .mulFlush => .write (cWordAddr c g i) :: rowsFrom c g (i + 1)
  | .trnRun => [.transpose g.a0 g.a2 (trnWords c g)]

variable {c g}

theorem prefetchesFrom_zero : prefetchesFrom c g 0 = columnPrefetches c g := by
  rw [prefetchesFrom, columnPrefetches, List.range_eq_range', Nat.sub_zero]

theorem prefetchesFrom_of_more {j : Nat} (h : j + 1 < g.d2) :
    prefetchesFrom c g j = .read (g.a1 + (j + 1) * c.wordBytes) :: prefetchesFrom c g (j + 1) := by
  rw [prefetchesFrom, show g.d2 - j = g.d2 - (j + 1) + 1 by omega, List.range'_succ, List.flatMap_cons, if_pos h]
  rfl

theorem prefetchesFrom_of_last {j : Nat} (h : j + 1 = g.d2) : prefetchesFrom c g j = [] := by
  rw [prefetchesFrom, show g.d2 - j = 1 by omega, List.range'_one, List.flatMap_singleton, if_neg (by omega)]

theorem rowsFrom_zero : mulRequests c g = .read g.a0 :: rowsFrom c g 0 := by
  rw [rowsFrom, mulRequests, List.range_eq_range', Nat.sub_zero]

theorem rowsFrom_of_lt {i : Nat} (h : i < g.d0) :
    rowsFrom c g i = rowRequests c g i ++ rowsFrom c g (i + 1) := by
  rw [rowsFrom, show g.d0 - i = g.d0 - (i + 1) + 1 by omega, List.range'_succ, List.flatMap_cons]
  rfl

theorem rowsFrom_end : rowsFrom c g g.d0 = [] := by
  rw [rowsFrom, Nat.sub_self]
  rfl

end

/-- The requests left of the running command. -/
def requestsLeft {c : Config} (b : Block c) : List Request := requestsFrom c b.args b.i.toNat b.j.toNat b.fsm

/-- A micro-step makes the first of the requests left, or none. -/
theorem requestsLeft_nextBlock {c : Config} {b : Block c} (hc : c.wf = true) (hs : sequencerOk b) (hk : CommandOk c b)
    (m : Mem) (hne : b.fsm ≠ .idle) :
    (nextRequest b).toList ++ requestsLeft (nextBlock m b) = requestsLeft b := by
  rw [requestsLeft, requestsLeft, nextBlock_args]
  cases hf : b.fsm with
  | idle => exact absurd hf hne
  | trnRun =>
    rw [nextBlock_trnRun hf, nextRequest, if_pos hf]
    rfl
  | mulInit =>
    rw [nextRequest_mulInit hf, nextBlock_mulInit hf, aWordAddr_zero]
    exact rowsFrom_zero.symm
  | mulRow =>
    have hi := hk.row_counter (by rw [hf]; rfl)
    rw [nextRequest_mulRow hf, nextBlock_mulRow hf, mulRow_eq]
    simp only [requestsFrom, rowsFrom_of_lt hi, rowRequests, aWordAddr, cWordAddr]
    split <;> simp
  | mulBload =>
    rw [nextRequest_mulBload hf, nextBlock_mulBload hf, bWordAddr_zero]
    simp only [requestsFrom, ← prefetchesFrom_zero]
    rfl
  | mulCol =>
    have hj := hk.column_counter hf
    obtain ⟨-, -, hm, -⟩ := hk.multiply_operands hs (by simp [hf]) (by simp [hf])
    rw [nextRequest_mulCol hf, nextBlock_mulCol hf]
    by_cases hlt : b.j.toNat + 1 < b.args.d2
    · rw [mulCol_of_more hlt, if_pos hlt, bWordAddr_of_lanes hc hm]
      simp only [requestsFrom, hf, toNat_succ_of_lt hlt, prefetchesFrom_of_more hlt]
      rfl
    · rw [mulCol_of_last hlt, if_neg hlt]
      simp only [requestsFrom, prefetchesFrom_of_last (show b.j.toNat + 1 = b.args.d2 by omega)]
      rfl
  | mulFlush =>
    have hi := hk.row_counter (by rw [hf]; rfl)
    rw [nextRequest_mulFlush hf, nextBlock_mulFlush hf]
    by_cases hlt : b.i.toNat + 1 < b.args.d0
    · rw [mulFlushBlock_of_more hlt]
      simp only [requestsFrom, toNat_succ_of_lt hlt]
      rfl
    · rw [mulFlushBlock_of_last hlt]
      simp only [requestsFrom, show b.i.toNat + 1 = b.args.d0 by omega, rowsFrom_end]
      rfl

/-! #### The run, step by step -/

section
variable {i : Instr} {s : State}

/-- While steps are left the block is BUSY. -/
theorem Launched.busy_of_stepsLeft (h : Launched i s) (hk : 0 < stepsLeft s.block) : s.block.status.busy = true := by
  refine (h.command.busy_checked h.sequencer fun hf => ?_).1
  simp [stepsLeft, stepsFrom, hf] at hk

/-- Up to the steps left, the machine's steps are block turns, and each is one of them. -/
theorem Launched.run_le {k : Nat} (h : Launched i s) (hk : k ≤ stepsLeft s.block) :
    Sys2Proof.core.run k s = .next (Machine.blockTurn^[k] s) ∧
      stepsLeft (Machine.blockTurn^[k] s).block + k = stepsLeft s.block := by
  induction k generalizing s with
  | zero => exact ⟨rfl, rfl⟩
  | succ k ih =>
    have hf : s.block.fsm ≠ .idle := fun hf => by simp [stepsLeft, stepsFrom, hf] at hk
    have hstep := h.stepsLeft_blockTurn hf
    obtain ⟨hrun, hleft⟩ := ih h.blockTurn (by omega)
    rw [Function.iterate_succ_apply]
    refine ⟨?_, by omega⟩
    rw [← hrun]
    simp [Host.Core.run, Sys2Proof.core, h.step_eq hf]

/-- A block turn moves the next request from those left to the trace. -/
theorem Launched.trace_blockTurn (h : Launched i s) :
    (Machine.blockTurn s).trace ++ requestsLeft (Machine.blockTurn s).block = s.trace ++ requestsLeft s.block := by
  by_cases hf : s.block.fsm = .idle
  · rw [blockTurn_idle hf]
  rw [h.blockTurn_eq]
  dsimp only
  rw [List.append_assoc, requestsLeft_nextBlock h.config h.sequencer h.command s.mem hf]

theorem Launched.trace_iterate (h : Launched i s) (k : Nat) :
    (Machine.blockTurn^[k] s).trace ++ requestsLeft (Machine.blockTurn^[k] s).block =
      s.trace ++ requestsLeft s.block := by
  induction k with
  | zero => rfl
  | succ k ih => rw [Function.iterate_succ_apply', (h.iterate k).trace_blockTurn, ih]

end

/-- Settles O32: the launch leaves all of R158's requests and steps to be made, each turn takes one step and its request
off what is left, and the block is BUSY while steps are left. -/
theorem multiplyRequestSequence : Obligations.MultiplyRequestSequence := by
  intro s hc hb hq he ha
  obtain ⟨hl, hsteps⟩ := launched_armed (i := .multiply) hc hq he ha
  have hsteps : stepsLeft (armed 0#4 .mulInit s).block = 1 + s.block.args.d0 * (s.block.args.d2 + 3) := hsteps
  obtain ⟨hrun, hidle⟩ := hl.run_stepsLeft hsteps
  have htrace := hl.trace_iterate (1 + s.block.args.d0 * (s.block.args.d2 + 3))
  rw [requestsLeft, hidle] at htrace
  refine ⟨_, _, exec_of_passed_check hb he, hrun, (List.append_nil _).symm.trans htrace, hidle, fun k hk => ?_⟩
  obtain ⟨hrunk, hleft⟩ := hl.run_le (k := k) (hsteps ▸ hk.le)
  have hleft := hleft.trans hsteps
  exact ⟨_, hrunk, (hl.iterate k).busy_of_stepsLeft (by omega)⟩

end Sys2Proof.Machine
end

/-!
### TRANSPOSE followed by MULTIPLY (70_reset_and_hazards.md section 2)
-/

section
namespace Sys2Proof.Machine

section
variable {c : Config} {m m' : Mem}

/-- A matrix held in a region two memories agree on is the same in both. -/
theorem AgreeOn.memMatrix {a n rows cols : Nat} (hl : 0 < c.lanes) (h : AgreeOn (wordRegion c a n) m m')
    (hsize : rows * cols ≤ n * c.lanes) : memMatrix c m' a rows cols = memMatrix c m a rows cols := by
  refine congrArg (Matrix.mk rows cols) (List.map_congr_left fun e he => h.memElem ?_)
  rw [Nat.div_lt_iff_lt_mul hl]
  exact (List.mem_range.mp he).trans_le hsize

/-- A written stream leaves every region apart from it alone. -/
theorem agreeOn_setMemWords (hm : m.wf = true) {r : Region} {a : Nat} (vs : List (BitVec c.dataWidth))
    (h : overlaps r (wordRegion c a vs.length) = false) : AgreeOn r m (setMemWords c m a vs) := by
  intro y hy
  refine readByte_setMemWords_outside hm a vs ?_
  by_contra hin
  have hshared : sharesByte r (wordRegion c a vs.length) := ⟨y, hy, inRegion_wordRegion.mpr (by omega)⟩
  exact Bool.eq_false_iff.mp h (overlaps_iff_sharesByte.mpr hshared)

/-- The destination of TRANSPOSE holds the transposed source matrix (R132). -/
theorem memMatrix_of_transpose (hc : c.wf = true) (hm : m.wf = true) {g : Args} (he : entryCheck c 1#4 g = .none) :
    memMatrix c (setMemWords c m g.a2 (trnWordList c m g)) g.a2 g.d1 g.d0 =
      (memMatrix c m g.a0 g.d0 g.d1).transposed := by
  obtain ⟨hr, -, -⟩ := entryCheck_transpose he
  refine congrArg (Matrix.mk g.d1 g.d0) (List.map_congr_left fun x hx => ?_)
  have hx : x < g.d0 * g.d1 := Nat.mul_comm g.d1 g.d0 ▸ List.mem_range.mp hx
  have hin : x / c.lanes < (trnWordList c m g).length := by
    rw [trnWordList_length]
    exact div_lanes_lt_trnWords hc he hx
  rw [memElem_setMemWords hm (Config.dataWidth_bytes hc) hin, streamElem_trnWordList hc he hx]
  exact (transposed_memMatrix_elem hr hx).symm.trans (getD_map_range _ 0 (Nat.mul_comm g.d0 g.d1 ▸ hx))

end

/-- Settles O34: MULTIPLY leaves the reference product of A and what TRANSPOSE left, which is B's transpose. -/
theorem transposeThenMultiplyIsProduct : Obligations.TransposeThenMultiplyIsProduct := by
  intro s t u b2 a b hc hm hb hq he ha ht hb2 he2 ha2 hrows hcols hdst hapart hA hB hu
  obtain ⟨-, h1, h2⟩ := entryCheck_multiply he2
  obtain ⟨-, -, hmod⟩ := entryCheck_transpose he
  have hl := Config.lanes_pos hc
  obtain ⟨t', hrunT, htm, -, -⟩ := runCommand_transpose hc hb hq he ha
  obtain rfl := Host.Outcome.next.inj (hrunT.symm.trans ht)
  have htwf : t'.mem.wf = true := htm ▸ setMemWords_wf hm _ _
  obtain ⟨u', hrunU, hwords, -, -, -⟩ :=
    runCommand_multiply (s := { s with block := b2, mem := t'.mem }) hc htwf hb2 hq he2 ha2
  obtain rfl := Host.Outcome.next.inj (hrunU.symm.trans hu)
  obtain rfl := Except.ok.inj ((decodeStream_rows hc h1).symm.trans hA)
  obtain rfl := Except.ok.inj ((decodeStream_memWords hl hmod).symm.trans hB)
  have hinA : AgreeOn (wordRegion s.cfg b2.args.a0 b2.args.d0) s.mem t'.mem := by
    rw [htm]
    refine agreeOn_setMemWords hm _ ?_
    rw [trnWordList_length]
    exact hapart
  have hmatA := hinA.memMatrix (rows := b2.args.d0) (cols := b2.args.d1) hl (by rw [h1])
  have hmatB := memMatrix_of_transpose hc hm he
  rw [← htm, ← hdst, hrows, hcols] at hmatB
  have henc := encodeMatrix_referenceProduct (m := t'.mem) (g := b2.args) hc h1 h2
  rw [hmatA, hmatB, referenceProduct_transposed _ _ rfl] at henc
  rw [hrows, hcols]
  exact henc.trans (congrArg Except.ok hwords.symm)

end Sys2Proof.Machine
end

/-!
### What one turn does, and the invariants of every step (10_state.md R23, R36, 20_memory.md R50)
-/

section
namespace Sys2Proof.Machine

/-! #### Machines with the same registers -/

theorem SameBlock.cfg {s t : State} (h : SameBlock s t) : t.cfg = s.cfg := by
  obtain ⟨_, _, _, _, _, rfl⟩ := h
  rfl

theorem SameBlock.trace {s t : State} (h : SameBlock s t) : t.trace = s.trace := by
  obtain ⟨_, _, _, _, _, rfl⟩ := h
  rfl

theorem SameBlock.sequencerOk {s t : State} (h : SameBlock s t) (hs : sequencerOk s.block) : sequencerOk t.block := by
  obtain ⟨_, _, _, _, _, rfl⟩ := h
  exact hs

/-! #### One turn of each agent -/

/-- What a host turn that answers can do: read, or find its write ignored; write a register of an idle block; launch;
write data memory. -/
inductive HostMove (s : State) : State → Prop
  | quiet (ls : List HostLine) (as : List Answer) (n : Nat) :
      HostMove s { s with program := ls, answers := as, fresh := n }
  | register (ls : List HostLine) (b : Block s.cfg) (hb : s.block.status.busy = false)
      (hst : b.status = s.block.status) (hf : b.fsm = s.block.fsm) : HostMove s ((s.setProgram ls).setBlock b)
  | launch (ls : List HostLine) (op : BitVec 4) (hb : s.block.status.busy = false) :
      HostMove s (((s.setProgram ls).setBlock (launch op s.block)).setTainted false)
  | memory (ls : List HostLine) (a : Nat) (bytes : List Byte) :
      HostMove s (breakDuty { base := a, len := bytes.length }
        ((s.setProgram ls).setMem (s.mem.writeBytes a bytes)))

theorem hostMove_of_hostLine {s t : State} {ls : List HostLine} {l : HostLine}
    (h : hostLine l (s.setProgram ls) = .next t) : HostMove s t := by
  obtain ⟨off, bits, v, h⟩ | ⟨off, ls', rfl⟩ | ⟨a, bytes, -, h⟩ | ⟨a, n, -, h⟩ := hostLine_next h
  · obtain rfl | ⟨hb, op, rfl⟩ | ⟨hb, op, rfl⟩ | ⟨hb, rfl⟩ := portWrite_next h
    · exact .quiet ls s.answers s.fresh
    · exact .register ls { s.block with op := op } hb rfl rfl
    · exact .launch ls op hb
    · obtain ⟨-, hst, hf, -⟩ := storeArg_frame s.block off v
      exact .register ls (storeArg s.block off v) hb hst hf
  · exact .quiet ls' _ s.fresh
  · rw [(hostWrite_next h).2]
    exact .memory ls a bytes
  · rw [(hostRead_next h).2]
    exact .quiet ls _ _

theorem hostMove_of_hostTurn {s t : State} (h : hostTurn s = .next t) : HostMove s t := by
  unfold hostTurn at h
  split at h
  · obtain rfl := Host.Outcome.next.inj h
    exact .quiet s.program s.answers s.fresh
  · exact hostMove_of_hostLine h

/-- A block turn does nothing, or it is the micro-step with its request on the bus (R236). -/
theorem blockTurn_eq_or (s : State) :
    blockTurn s = s ∨ blockTurn s =
      { s with
        block := nextBlock s.mem s.block, mem := (microStep s).mem, fresh := (microStep s).fresh
        trace := s.trace ++ (nextRequest s.block).toList } := by
  by_cases h : ∀ r, nextRequest s.block = some r → admits s.cfg r = true
  · exact .inr (blockTurn_of_admitted h)
  · push Not at h
    obtain ⟨r, hr, ha⟩ := h
    exact .inl (blockTurn_of_refused hr (Bool.eq_false_iff.mpr ha))

/-- What every turn of every agent keeps, whatever the rest of the schedule, every step keeps. -/
theorem step_keeps {P : State → Prop} (schedule : ∀ s ts, P s → P (s.setSchedule ts))
    (host : ∀ s t, P s → HostMove s t → P t) (block : ∀ s, P s → P (blockTurn s))
    (reset : ∀ s, P s → P (resetTurn s)) {s t : State} (hs : P s) (h : step s = .next t) : P t := by
  obtain ⟨ts, hh | rfl | rfl⟩ := step_cases h
  · exact host _ _ (schedule s ts hs) (hostMove_of_hostTurn hh)
  · exact block _ (schedule s ts hs)
  · exact reset _ (schedule s ts hs)

/-! #### Memory stays canonical (20_memory.md R50) -/

theorem breakDuty_mem_wf {r : Region} {s : State} (h : s.mem.wf = true) : (breakDuty r s).mem.wf = true := by
  obtain ⟨-, he⟩ | ⟨-, -, he⟩ | ⟨-, -, -, he⟩ | ⟨-, -, -, he⟩ := breakDuty_cases r s
  · rwa [he]
  · rw [he]
    exact State.havoc_wf h _
  · rw [he]
    exact h
  · rwa [he]

theorem HostMove.mem_wf {s t : State} (h : HostMove s t) (hm : s.mem.wf = true) : t.mem.wf = true := by
  cases h with
  | quiet | register | launch => exact hm
  | memory ls a bytes => exact breakDuty_mem_wf (Mem.wf_writeBytes hm a bytes)

theorem blockTurn_mem_wf {s : State} (h : s.mem.wf = true) : (blockTurn s).mem.wf = true := by
  obtain he | he := blockTurn_eq_or s
  · rwa [he]
  · rw [he]
    exact microStep_mem_wf h

theorem resetTurn_mem_wf {s : State} (h : s.mem.wf = true) : (resetTurn s).mem.wf = true := State.havoc_wf h _

/-- Settles O38: each agent writes memory through operations that keep the canonical form. -/
theorem memoryStaysCanonical : Obligations.MemoryStaysCanonical :=
  ⟨reset_mem_wf, fun _ _ => step_keeps (P := fun s => s.mem.wf = true) (fun _ _ h => h) (fun _ _ h hm => hm.mem_wf h)
    (fun _ => blockTurn_mem_wf) (fun _ => resetTurn_mem_wf)⟩

/-! #### STATUS (10_state.md R23) -/

theorem statusOk_completed : StatusOk Status.completed := ⟨nofun, nofun, fun _ => rfl, Nat.zero_le 8⟩

theorem statusOk_reset (c : Config) : StatusOk (Block.reset c).status := ⟨nofun, nofun, fun _ => rfl, Nat.zero_le 8⟩

theorem statusOk_launched (st : Status) : StatusOk st.launched :=
  ⟨fun _ => ⟨rfl, rfl, rfl⟩, nofun, fun _ => rfl, Nat.zero_le 8⟩

/-- R221: the error codes are 1 to 8. -/
theorem ErrCode.byte_range (code : ErrCode) (h : code ≠ .none) : code.byte ≠ 0 ∧ code.byte.toNat ≤ 8 := by
  cases code with
  | none => exact absurd rfl h
  | op | dim0 | dim1 | dim2 | shape | align | range | overlap => decide

theorem statusOk_failed {code : ErrCode} (h : code ≠ .none) : StatusOk (Status.failed code) :=
  ⟨nofun, fun _ => ⟨rfl, (code.byte_range h).1⟩, nofun, (code.byte_range h).2⟩

theorem statusOk_launch {c : Config} (op : BitVec 4) (b : Block c) : StatusOk (launch op b).status := by
  obtain ⟨-, hl⟩ | ⟨hne, hl⟩ := launch_cases op b
  · rw [hl]
    exact statusOk_launched b.status
  · rw [hl]
    exact statusOk_failed hne

theorem HostMove.statusOk {s t : State} (h : HostMove s t) (hs : StatusOk s.block.status) : StatusOk t.block.status := by
  cases h with
  | quiet => exact hs
  | register ls b _ hst _ => exact hst.symm ▸ hs
  | launch ls op _ => exact statusOk_launch op s.block
  | memory ls a bytes =>
    rw [breakDuty_block_status]
    exact hs

theorem statusOk_blockTurn {s : State} (h : StatusOk s.block.status) : StatusOk (blockTurn s).block.status := by
  obtain hst | hst := blockTurn_status s
  · rwa [hst]
  · rw [hst]
    exact statusOk_completed

/-- Settles O39: STATUS is written by launches, completions and reset alone, and each writes one that is in order. -/
theorem statusInvariantKept : Obligations.StatusInvariantKept := fun _ _ =>
  step_keeps (P := fun s => StatusOk s.block.status) (fun _ _ h => h) (fun _ _ h hm => hm.statusOk h)
    (fun _ => statusOk_blockTurn) (fun s _ => statusOk_reset s.cfg)

/-- Settles O42: a block turn keeps STATUS or completes the command, and STATUS of a BUSY block shows no error. -/
theorem noErrorAfterLaunch : Obligations.NoErrorAfterLaunch := by
  intro s
  obtain hst | hst := blockTurn_status s
  · rw [hst]
    exact ⟨id, fun hs hb => (hs.busy_clear hb).2⟩
  · rw [hst]
    exact ⟨fun _ => rfl, fun _ _ => ⟨rfl, rfl⟩⟩

/-! #### The sequencer (R36) -/

/-- A micro-step moves fsm and BUSY together, whatever the operands. -/
theorem sequencerOk_nextBlock {c : Config} {b : Block c} (h : sequencerOk b) (m : Mem) :
    sequencerOk (nextBlock m b) := by
  by_cases hf : b.fsm = .idle
  · rwa [nextBlock_idle hf]
  · obtain ⟨-, -, ⟨hst, hfsm, -⟩ | ⟨hst, hfsm⟩⟩ := nextBlock_frame m b hf
    · rw [sequencerOk, hst]
      exact iff_of_false hfsm (mt h.mpr hf)
    · rw [sequencerOk, hst]
      exact iff_of_true hfsm rfl

theorem sequencerOk_blockTurn {s : State} (h : sequencerOk s.block) : sequencerOk (blockTurn s).block := by
  obtain he | he := blockTurn_eq_or s
  · rwa [he]
  · rw [he]
    exact sequencerOk_nextBlock h s.mem

theorem sequencerOk_launch {c : Config} (op : BitVec 4) (b : Block c) : sequencerOk (launch op b) := by
  obtain ⟨-, hl⟩ | ⟨-, hl⟩ := launch_cases op b
  · rw [hl]
    refine iff_of_false ?_ nofun
    dsimp only
    split <;> nofun
  · rw [hl]
    exact iff_of_true rfl rfl

theorem HostMove.cfg {s t : State} (h : HostMove s t) : t.cfg = s.cfg := by
  cases h with
  | quiet | register | launch => rfl
  | memory ls a bytes => exact (sameBlock_breakDuty _ (s.setProgram ls) _).cfg

theorem HostMove.sequencerOk {s t : State} (h : HostMove s t) (hs : sequencerOk s.block) : sequencerOk t.block := by
  cases h with
  | quiet => exact hs
  | register ls b _ hst hf =>
    show b.fsm = .idle ↔ b.status.busy = false
    rw [hst, hf]
    exact hs
  | launch ls op _ => exact sequencerOk_launch op s.block
  | memory ls a bytes => exact (sameBlock_breakDuty _ (s.setProgram ls) _).sequencerOk hs

/-- Settles O40: launches, micro-steps and reset move fsm and BUSY together, and nothing else moves either. -/
theorem sequencerMatchesBusy : Obligations.SequencerMatchesBusy := fun s _ hs =>
  step_keeps (P := fun u => sequencerOk u.block ∧ u.cfg = s.cfg) (fun _ _ h => h)
    (fun _ _ ⟨h, hc⟩ hm => ⟨hm.sequencerOk h, hm.cfg.trans hc⟩)
    (fun u ⟨h, hc⟩ => ⟨sequencerOk_blockTurn h, (blockTurn_frame u).1.trans hc⟩)
    (fun _ ⟨_, hc⟩ => ⟨iff_of_true rfl rfl, hc⟩) ⟨hs, rfl⟩

end Sys2Proof.Machine
end

/-!
### The run invariant (42_multiply.md section 5, 10_state.md sections 2 and 4)
-/

section
namespace Sys2Proof.Machine

/-! #### An idle machine and a launch -/

/-- An idle block has nothing running, so only what is common to all states is left to hold. -/
theorem runOk_of_idle {s : State} (hc : s.cfg.wf = true) (hm : s.mem.wf = true) (hst : StatusOk s.block.status)
    (hb : s.block.status.busy = false) (hf : s.block.fsm = .idle) : RunOk s := by
  have hnb : s.block.status.busy ≠ true := by simp [hb]
  exact
    { config := hc
      memory := hm
      status := hst
      sequencer := iff_of_true hf hb
      command :=
        { checked := fun h => absurd h hnb
          multiply_states := fun h => absurd h hnb
          transpose_state := fun h => absurd h hnb
          row_counter := by simp [hf, inRow]
          column_counter := by simp [hf] }
      progress := fun h => absurd h hnb }

theorem runOk_resetTurn {s : State} (h : RunOk s) : RunOk (resetTurn s) :=
  runOk_of_idle h.config (resetTurn_mem_wf h.memory) (statusOk_reset s.cfg) rfl rfl

/-- Settles O36: the machine is idle and lists no memory. -/
theorem runInvariantAtReset : Obligations.RunInvariantAtReset := fun c hc =>
  runOk_of_idle hc (resetOf_mem_wf c) (statusOk_reset c) rfl rfl

/-- A launch leaves the block idle, or armed in the first state of a command that passed its checks. -/
theorem commandOk_launch {c : Config} (op : BitVec 4) (b : Block c) : CommandOk c (launch op b) := by
  obtain ⟨he, hl⟩ | ⟨-, hl⟩ := launch_cases op b
  · rw [hl]
    by_cases hop : op = 0#4
    · exact ⟨fun _ => he, fun _ _ => by simp [hop], fun _ h => absurd hop h, by simp [hop, inRow], by simp [hop]⟩
    · exact ⟨fun _ => he, fun _ h => absurd h hop, fun _ _ => if_neg hop, by simp [hop, inRow], by simp [hop]⟩
  · rw [hl]
    exact ⟨nofun, nofun, nofun, nofun, nofun⟩

/-- No row is being computed after a launch. -/
theorem inRow_launch {c : Config} (op : BitVec 4) (b : Block c) : inRow (launch op b).fsm = false := by
  obtain ⟨-, hl⟩ | ⟨-, hl⟩ := launch_cases op b
  · rw [hl]
    by_cases hop : op = 0#4 <;> simp [hop, inRow]
  · rw [hl]
    rfl

/-- Outside a row R163's invariants say nothing. -/
theorem mulProgress_of_not_inRow {s : State} (h : inRow s.block.fsm = false) : MulProgress s := by
  have hr : inRow s.block.fsm ≠ true := by simp [h]
  have hcol : s.block.fsm ≠ .mulCol := fun hf => by simp [hf, inRow] at h
  have hflush : s.block.fsm ≠ .mulFlush := fun hf => by simp [hf, inRow] at h
  exact ⟨fun h => absurd h hr, fun h => absurd h hr, fun h => absurd h hcol, fun h => absurd h hcol,
    fun h => absurd h hflush, fun h => absurd h hr⟩

/-! #### Host writes beside a running command's regions (20_memory.md R63) -/

/-- Bytes written apart from a region leave it alone. -/
theorem agreeOn_writeBytes {m : Mem} (hm : m.wf = true) {r : Region} {a : Nat} {bytes : List Byte}
    (h : overlaps { base := a, len := bytes.length } r = false) : AgreeOn r m (m.writeBytes a bytes) := by
  intro y hy
  refine Mem.readByte_writeBytes_outside hm ?_
  by_contra hin
  have hshared : sharesByte { base := a, len := bytes.length } r := ⟨y, inRegion_iff.mpr (by dsimp only; omega), hy⟩
  exact Bool.eq_false_iff.mp h (overlaps_iff_sharesByte.mpr hshared)

/-- The double buffers, the packed lanes and the written rows stay right while the running command's regions stay. -/
theorem MulProgress.setMem {s : State} (hc : s.cfg.wf = true) (hk : CommandOk s.cfg s.block) (h : MulProgress s)
    (hb : s.block.status.busy = true) (hop : s.block.op = 0#4) {m : Mem}
    (hin : ∀ r ∈ runningInputs s, AgreeOn r s.mem m) (hout : AgreeOn (runningOutput s) s.mem m) :
    MulProgress (s.setMem m) := by
  have he := hk.checked hb
  rw [hop] at he
  rw [runningInputs, hop] at hin
  rw [runningOutput, hop] at hout
  obtain ⟨-, hd1, -⟩ := entryCheck_multiply he
  have hrow {t : Nat} (ht : t < s.block.args.d0) : rowWord (s.setMem m) t = rowWord s t := memWord_aWordAddr_eq hin ht
  have hcol {t : Nat} (ht : t < s.block.args.d2) : columnWord (s.setMem m) t = columnWord s t :=
    memWord_bWordAddr_eq hc hd1 hin ht
  have hword {t : Nat} (ht : t < s.block.args.d0) : outputWord (s.setMem m) t = outputWord s t :=
    AgreeOn.memWord (n := s.block.args.d0) hout ht
  have hlanes {v : BitVec s.cfg.dataWidth} {r k : Nat} (hr : r < s.block.args.d0) (hk : k ≤ s.block.args.d2)
      (hv : lanesHold s v r k) : lanesHold (s.setMem m) v r k := fun x hx =>
    (hv x hx).trans (congrArg₂ (dot s.cfg) (hrow hr) (hcol (hx.trans_le hk))).symm
  have hi := hk.row_counter
  have hj := hk.column_counter
  exact
    { row_loaded := fun hf => (h.row_loaded hf).trans (hrow (hi hf)).symm
      next_row_loaded := fun hf hne hlt => (h.next_row_loaded hf hne hlt).trans (hrow hlt).symm
      column_loaded := fun hf => (h.column_loaded hf).trans (hcol (hj hf)).symm
      lanes_packed := fun hf => hlanes (hi (congrArg inRow hf)) (hj hf).le (h.lanes_packed hf)
      row_packed := fun hf => hlanes (hi (congrArg inRow hf)) le_rfl (h.row_packed hf)
      rows_written := fun hf r hr => by
        have hr' : r < s.block.args.d0 := lt_trans hr (hi hf)
        rw [hword hr']
        exact hlanes hr' le_rfl (h.rows_written hf r hr) }

/-- A tainted run promises nothing of its data. -/
theorem RunOk.of_tainted {s : State} (h : RunOk s) {m : Mem} (hm : m.wf = true) (n : Nat) :
    RunOk { s with mem := m, tainted := true, fresh := n } :=
  ⟨h.config, hm, h.status, h.sequencer, h.command, fun _ _ ht => nomatch ht⟩

/-- A host write keeps the run invariant: beside the regions it changes nothing that is used, and otherwise it taints
the run (R267). -/
theorem RunOk.hostWrite {s : State} (h : RunOk s) (a : Nat) (bytes : List Byte) :
    RunOk (breakDuty { base := a, len := bytes.length } (s.setMem (s.mem.writeBytes a bytes))) := by
  have hm : (s.mem.writeBytes a bytes).wf = true := Mem.wf_writeBytes h.memory a bytes
  obtain ⟨hb, he⟩ | ⟨-, -, he⟩ | ⟨-, -, -, he⟩ | ⟨hb, hout, hin, he⟩ :=
    breakDuty_cases { base := a, len := bytes.length } (s.setMem (s.mem.writeBytes a bytes))
  · rw [he]
    exact runOk_of_idle h.config hm h.status hb (h.sequencer.mpr hb)
  · rw [he]
    exact h.of_tainted (State.havoc_wf (s := s.setMem _) hm _) _
  · rw [he]
    exact h.of_tainted hm s.fresh
  · rw [he]
    refine ⟨h.config, hm, h.status, h.sequencer, h.command, fun _ hop ht => ?_⟩
    exact (h.progress hb hop ht).setMem h.config h.command hb hop
      (fun r hr => agreeOn_writeBytes h.memory (Bool.eq_false_iff.mpr (List.any_eq_false.mp hin r hr)))
      (agreeOn_writeBytes h.memory hout)

/-! #### Every turn -/

/-- The invariant is about the configuration, the block, memory and the taint mark alone. -/
theorem RunOk.of_observers {s : State} (h : RunOk s) (ls : List HostLine) (ts : List Turn) (as : List Answer)
    (rs : List Request) (n : Nat) :
    RunOk { s with program := ls, schedule := ts, answers := as, trace := rs, fresh := n } :=
  ⟨h.config, h.memory, h.status, h.sequencer, h.command, fun hb hop ht =>
    have ⟨h1, h2, h3, h4, h5, h6⟩ := h.progress hb hop ht
    ⟨h1, h2, h3, h4, h5, h6⟩⟩

theorem HostMove.runOk {s t : State} (h : HostMove s t) (hs : RunOk s) : RunOk t := by
  cases h with
  | quiet ls as n => exact hs.of_observers ls s.schedule as s.trace n
  | register ls b hb hst hf =>
    exact runOk_of_idle hs.config hs.memory (hst ▸ hs.status) (hst ▸ hb) (hf.trans (hs.sequencer.mpr hb))
  | launch ls op hb =>
    exact ⟨hs.config, hs.memory, statusOk_launch op s.block, sequencerOk_launch op s.block, commandOk_launch op s.block,
      fun _ _ _ => mulProgress_of_not_inRow (inRow_launch op s.block)⟩
  | memory ls a bytes =>
    exact (hs.of_observers ls s.schedule s.answers s.trace s.fresh).hostWrite a bytes

theorem RunOk.blockTurn {s : State} (h : RunOk s) : RunOk (blockTurn s) := by
  by_cases hf : s.block.fsm = .idle
  · rwa [blockTurn_idle hf]
  have hb := (h.command.busy_checked h.sequencer hf).1
  have hst := statusOk_blockTurn h.status
  have hprogress (hop : s.block.op = 0#4) (ht : s.tainted = false) : MulProgress (Machine.blockTurn s) :=
    (h.progress hb hop ht).blockTurn h.config h.memory h.sequencer h.command hop ht
  obtain he | he := blockTurn_eq_or s
  · rwa [he]
  · rw [he] at hst hprogress ⊢
    exact
      { config := h.config
        memory := microStep_mem_wf h.memory
        status := hst
        sequencer := sequencerOk_nextBlock h.sequencer s.mem
        command := nextBlock_commandOk h.config h.sequencer h.command s.mem
        progress := fun _ hop ht => hprogress ((nextBlock_op s.mem s.block).symm.trans hop) ht }

theorem RunOk.setSchedule {s : State} (h : RunOk s) (ts : List Turn) : RunOk (s.setSchedule ts) :=
  h.of_observers s.program ts s.answers s.trace s.fresh

/-- Settles O37: the invariant holds after every turn of every agent. -/
theorem runInvariantKept : Obligations.RunInvariantKept := fun _ _ =>
  step_keeps (fun _ ts h => h.setSchedule ts) (fun _ _ h hm => hm.runOk h) (fun _ h => h.blockTurn)
    (fun _ h => runOk_resetTurn h)

/-! #### Requests in range (20_memory.md R55) -/

theorem addressCheck_parts {c : Config} {inputs : List Region} {out : Region}
    (h : addressCheck c inputs out = .none) : Aligned c (inputs ++ [out]) ∧ InSpace c (inputs ++ [out]) := by
  by_cases ha : Aligned c (inputs ++ [out])
  · by_cases hs : InSpace c (inputs ++ [out])
    · exact ⟨ha, hs⟩
    · exact nomatch (addressCheck_range ha hs).symm.trans h
  · exact nomatch (addressCheck_align ha).symm.trans h

/-- Word t of an aligned stream that ends within the address space. -/
theorem wordInRange_of_stream {c : Config} {a n t : Nat} (ha : c.wordBytes ∣ a)
    (hs : a + n * c.wordBytes ≤ 2 ^ c.addrWidth) (ht : t < n) : wordInRange c (a + t * c.wordBytes) := by
  have hle : (t + 1) * c.wordBytes ≤ n * c.wordBytes := Nat.mul_le_mul_right _ ht
  rw [Nat.succ_mul] at hle
  exact ⟨Nat.mod_eq_zero_of_dvd (Dvd.dvd.add ha (Nat.dvd_mul_left _ _)), by omega⟩

section
variable {c : Config} {g : Args}

theorem mulRequests_inRange (hc : c.wf = true) (he : entryCheck c 0#4 g = .none) :
    ∀ r ∈ mulRequests c g, requestInRange c r := by
  obtain ⟨hn, h1, h2⟩ := entryCheck_multiply he
  obtain ⟨ha, hs⟩ := addressCheck_parts (addressCheck_of_entryCheck he)
  obtain ⟨ha0, ha1, ha2⟩ := multiply_aligned_iff.mp ha
  obtain ⟨hs0, hs1, hs2⟩ := multiply_inSpace_iff.mp hs
  rw [h1, Nat.div_self (Config.lanes_pos hc), Nat.mul_one] at hs1
  have hp : 0 < g.d2 := h2 ▸ Config.lanes_pos hc
  have h0 := wordInRange_of_stream ha0 hs0 hn
  have h1 := wordInRange_of_stream ha1 hs1 hp
  rw [Nat.zero_mul, Nat.add_zero] at h0 h1
  intro r hr
  simp only [mulRequests, rowRequests, columnPrefetches, List.mem_cons, List.mem_append, List.mem_flatMap,
    List.mem_range, List.not_mem_nil, or_false, List.mem_ite_nil_right] at hr
  obtain rfl | ⟨i, hi, ((⟨hi', rfl⟩ | rfl) | ⟨j, hj, hj', rfl⟩) | rfl⟩ := hr
  · exact h0
  · exact wordInRange_of_stream ha0 hs0 hi'
  · exact h1
  · exact wordInRange_of_stream ha1 hs1 hj'
  · exact wordInRange_of_stream ha2 hs2 hi

theorem trnRequest_inRange (he : entryCheck c 1#4 g = .none) :
    requestInRange c (.transpose g.a0 g.a2 (trnWords c g)) := by
  obtain ⟨ha, hs⟩ := addressCheck_parts (addressCheck_of_entryCheck he)
  obtain ⟨ha0, ha2⟩ := transpose_aligned_iff.mp ha
  obtain ⟨hs0, hs2⟩ := transpose_inSpace_iff.mp hs
  exact fun t ht => ⟨wordInRange_of_stream ha0 hs0 ht, wordInRange_of_stream ha2 hs2 ht⟩

theorem commandRequests_inRange (hc : c.wf = true) {i : Instr} (he : entryCheck c i.op g = .none) :
    ∀ r ∈ commandRequests c i g, requestInRange c r := by
  cases i with
  | multiply => exact mulRequests_inRange hc he
  | transpose =>
    intro r hr
    obtain rfl := List.mem_singleton.mp hr
    exact trnRequest_inRange he

end

/-- The OP of a running command is that of MULTIPLY or TRANSPOSE. -/
theorem exists_instr_of_entryCheck {c : Config} {op : BitVec 4} {g : Args} (h : entryCheck c op g = .none) :
    ∃ i : Instr, op = i.op :=
  (entryCheck_op h).elim (fun h => ⟨.multiply, h⟩) (fun h => ⟨.transpose, h⟩)

/-- The request a block is about to make is one of its command's, whose regions passed the address checks. -/
theorem RunOk.nextRequest_inRange {s : State} (h : RunOk s) {r : Request} (hr : nextRequest s.block = some r) :
    requestInRange s.cfg r := by
  have hf : s.block.fsm ≠ .idle := fun hf => by simp [nextRequest, mulRequest, hf] at hr
  have he := (h.command.busy_checked h.sequencer hf).2
  obtain ⟨i, hop⟩ := exists_instr_of_entryCheck he
  exact commandRequests_inRange h.config (hop ▸ he) r (nextRequest_mem h.config h.sequencer h.command hop hr)

/-- The host makes no request of the block. -/
theorem HostMove.trace {s t : State} (h : HostMove s t) : t.trace = s.trace := by
  cases h with
  | quiet | register | launch => rfl
  | memory ls a bytes => exact (sameBlock_breakDuty _ (s.setProgram ls) _).trace

/-- The trace holds requests in range only. -/
def TraceInRange (c : Config) (s : State) : Prop := ∀ r ∈ s.trace, requestInRange c r

theorem RunOk.traceInRange_blockTurn {s : State} (h : RunOk s) (ht : TraceInRange s.cfg s) :
    TraceInRange s.cfg (Machine.blockTurn s) := by
  obtain he | he := blockTurn_eq_or s
  · rwa [he]
  · rw [he]
    intro r hr
    rcases List.mem_append.mp hr with hr | hr
    · exact ht r hr
    · exact h.nextRequest_inRange (Option.mem_toList.mp hr)

/-- Settles O41: only a block turn adds to the trace, and what it adds is in range. -/
theorem requestsAlignedAndInRange : Obligations.RequestsAlignedAndInRange := by
  intro s t hs htrace h
  have hkeep : RunOk t ∧ t.cfg = s.cfg ∧ TraceInRange s.cfg t := by
    refine step_keeps (P := fun u => RunOk u ∧ u.cfg = s.cfg ∧ TraceInRange s.cfg u) ?_ ?_ ?_ ?_ ⟨hs, rfl, htrace⟩ h
    · exact fun u ts ⟨hu, hrest⟩ => ⟨hu.setSchedule ts, hrest⟩
    · exact fun u v ⟨hu, hc, hr⟩ hm =>
        ⟨hm.runOk hu, hm.cfg.trans hc, by rw [TraceInRange, hm.trace]; exact hr⟩
    · exact fun u ⟨hu, hc, hr⟩ =>
        ⟨hu.blockTurn, (blockTurn_frame u).1.trans hc, hc ▸ hu.traceInRange_blockTurn (hc ▸ hr)⟩
    · exact fun u ⟨hu, hc, hr⟩ => ⟨runOk_resetTurn hu, hc, hr⟩
  exact hkeep.2.2

end Sys2Proof.Machine
end

/-!
### The control port and the host's lines (45_control_port.md R195, 30_encoding.md R92, R93)
-/

section
namespace Sys2Proof.Machine

/-! #### STATUS as a register (R195) -/

/-- Appending is a shift and a sum, since the low part is below the shift. -/
theorem toNat_append_eq_add {n m : Nat} (x : BitVec n) (y : BitVec m) :
    (x ++ y).toNat = x.toNat * 2 ^ m + y.toNat := by
  rw [BitVec.toNat_append, ← Nat.shiftLeft_add_eq_or_of_lt y.isLt, Nat.shiftLeft_eq]

section
variable (st : Status)

/-- Bit x of STATUS: BUSY, DONE, ERR, five zeros, then ERRCODE. -/
theorem Status.word_getLsbD (x : Nat) : st.word.getLsbD x =
    if x < 1 then (BitVec.ofBool st.busy).getLsbD x
    else if x - 1 < 1 then (BitVec.ofBool st.done).getLsbD (x - 1)
    else if x - 1 - 1 < 1 then (BitVec.ofBool st.err).getLsbD (x - 1 - 1)
    else if x - 1 - 1 - 1 < 5 then (0#5).getLsbD (x - 1 - 1 - 1)
    else if x - 1 - 1 - 1 - 5 < 8 then st.errcode.getLsbD (x - 1 - 1 - 1 - 5)
    else (0#16).getLsbD (x - 1 - 1 - 1 - 5 - 8) := by
  show BitVec.getLsbD (w := 16 + 8 + 5 + 1 + 1 + 1) _ x = _
  rw [Status.word, BitVec.getLsbD_append, BitVec.getLsbD_append, BitVec.getLsbD_append, BitVec.getLsbD_append,
    BitVec.getLsbD_append]

theorem Status.word_busy : st.word.getLsbD 0 = st.busy := by
  rw [Status.word_getLsbD]
  simp

theorem Status.word_done : st.word.getLsbD 1 = st.done := by
  rw [Status.word_getLsbD]
  simp

theorem Status.word_err : st.word.getLsbD 2 = st.err := by
  rw [Status.word_getLsbD]
  simp

theorem Status.word_errcode : st.word.extractLsb' 8 8 = st.errcode := by
  apply BitVec.eq_of_getLsbD_eq
  intro x hx
  rw [BitVec.getLsbD_extractLsb', Status.word_getLsbD]
  simp (disch := omega) only [if_neg, if_pos]
  simp [hx]

/-- The reserved bits read 0. -/
theorem Status.word_reserved : st.word &&& 0xFFFF00F8#32 = 0#32 := by
  have hmask : 0xFFFF00F8#32 = BitVec.allOnes 16 ++ 0#8 ++ BitVec.allOnes 5 ++ 0#1 ++ 0#1 ++ 0#1 := by decide
  rw [hmask, Status.word, BitVec.and_append, BitVec.and_append, BitVec.and_append, BitVec.and_append,
    BitVec.and_append]
  simp only [BitVec.zero_and, BitVec.and_zero]
  decide

/-- STATUS as a number: ERRCODE above the three flags. -/
theorem Status.word_toNat :
    st.word.toNat = st.errcode.toNat * 0x100 + 4 * st.err.toNat + 2 * st.done.toNat + st.busy.toNat := by
  show BitVec.toNat (w := 16 + 8 + 5 + 1 + 1 + 1) _ = _
  rw [Status.word, toNat_append_eq_add, toNat_append_eq_add, toNat_append_eq_add, toNat_append_eq_add,
    toNat_append_eq_add]
  simp only [BitVec.toNat_ofBool, BitVec.toNat_ofNat]
  omega

variable {st}

/-- The values of STATUS a host can see (R23, R195). -/
theorem StatusOk.word_values (h : StatusOk st) :
    st.word = 0#32 ∨ st.word = 1#32 ∨ st.word = 2#32 ∨ ∃ n, 1 ≤ n ∧ n ≤ 8 ∧ st.word.toNat = n * 0x100 + 6 := by
  have hn := Status.word_toNat st
  cases hb : st.busy with
  | true =>
    obtain ⟨hd, he, hcode⟩ := h.busy_clear hb
    rw [hd, he, hcode, hb] at hn
    exact .inr (.inl (BitVec.eq_of_toNat_eq hn))
  | false =>
    cases he : st.err with
    | true =>
      obtain ⟨hd, hne⟩ := h.err_done he
      simp only [hd, he, hb, Bool.toNat_true, Bool.toNat_false] at hn
      have hpos : st.errcode.toNat ≠ 0 := fun h0 => hne (BitVec.eq_of_toNat_eq h0)
      exact .inr (.inr (.inr ⟨st.errcode.toNat, by omega, h.known_code, by omega⟩))
    | false =>
      rw [h.no_err he, he, hb] at hn
      cases hd : st.done with
      | true =>
        rw [hd] at hn
        exact .inr (.inr (.inl (BitVec.eq_of_toNat_eq hn)))
      | false =>
        rw [hd] at hn
        exact .inl (BitVec.eq_of_toNat_eq hn)

end

/-- Settles O16: the read answers STATUS's word, whose bits are the fields, and R23's invariants leave it few values. -/
theorem statusReadReturnsFields : Obligations.StatusReadReturnsFields := fun s =>
  ⟨s.block.status.word, portRead_of_admitted rfl (by decide) s, Status.word_busy _, Status.word_done _,
    Status.word_err _, Status.word_errcode _, Status.word_reserved _, fun h => h.word_values⟩

/-! #### Addresses of the control space (20_memory.md R59) -/

theorem portOffset_of_lt {c : Config} {off : Nat} (h : off < 0x100) :
    portOffset c (c.ctrlBase + off) = some off := by
  rw [portOffset, if_pos (by omega), Nat.add_sub_cancel_left]

/-- Settles O23: the offset is the distance from CTRL_BASE. -/
theorem busAddressIsBasePlusOffset : Obligations.BusAddressIsBasePlusOffset := by
  intro s off bits v h
  rw [busWrite, busRead, portOffset_of_lt h]
  exact ⟨rfl, rfl⟩

/-! #### The registers after reset (10_state.md R41) -/

/-- Settles O44: the registers are the reset block's, and the widths the default configuration's. -/
theorem resetValues : Obligations.ResetValues :=
  ⟨portValue_reset Config.standard, rfl, rfl, rfl, rfl, rfl, rfl, rfl, rfl⟩

/-! #### The lines of setarg and wait (30_encoding.md R93) -/

/-- With the schedule used up, a register write that an idle host has next is the step, and it stores its value (R197). -/
theorem step_of_wrLine {s : State} {off : Nat} {v : Reg} {ls : List HostLine} (hq : s.schedule = [])
    (hb : s.block.status.busy = false) (hp : s.program = wrLine off v :: ls) (h : off ∈ argOffsets) :
    step s = .next ((s.setProgram ls).setBlock (storeArg s.block off v)) := by
  obtain ⟨ha, hr, h0⟩ := argOffsets_admitted off h
  rw [step_of_idle hq hb, hostTurn_of_line hp, wrLine, hostLine, portWrite_of_admitted ha hr h0]
  exact congrArg Host.Outcome.next (writeOther_idle (s := s.setProgram ls) hb)

/-- Two register writes are two steps. -/
theorem run_two_wrLines {s : State} {off off' : Nat} {v v' : Reg} {ls : List HostLine} (hq : s.schedule = [])
    (hb : s.block.status.busy = false) (hp : s.program = wrLine off v :: wrLine off' v' :: ls)
    (h : off ∈ argOffsets) (h' : off' ∈ argOffsets) :
    Sys2Proof.core.run 2 s = .next ((s.setProgram ls).setBlock (storeArg (storeArg s.block off v) off' v')) := by
  have h1 := step_of_wrLine hq hb hp h
  obtain ⟨-, hst, -⟩ := storeArg_frame s.block off v
  have h2 := step_of_wrLine (s := (s.setProgram (wrLine off' v' :: ls)).setBlock (storeArg s.block off v)) hq
    ((congrArg Status.busy hst).trans hb) rfl h'
  simp only [Host.Core.run, Sys2Proof.core, h1, h2]
  rfl

/-- The two halves of a 64-bit argument, put together (R87). -/
theorem argAddr_halves (x : BitVec 64) : argAddr (x.extractLsb' 32 32) (x.extractLsb' 0 32) = x.toNat := by
  have hx : x.extractLsb' 32 32 ++ x.extractLsb' 0 32 = x :=
    (BitVec.extractLsb'_append_extractLsb'_eq_extractLsb' rfl).trans BitVec.extractLsb'_eq_self
  rw [argAddr, hx]

/-- The two low bits of STATUS, as `wait` compares them. -/
theorem wait_condition_iff (st : Status) : st.word &&& 0x3#32 = 0x2#32 ↔ st.busy = false ∧ st.done = true := by
  have hmask : (st.word &&& 0x3#32).toNat = st.word.toNat % 4 := Nat.and_two_pow_sub_one_eq_mod st.word.toNat 2
  have hlow : st.word.toNat % 4 = 2 * st.done.toNat + st.busy.toNat := by
    have hd := Bool.toNat_lt st.done
    have hb := Bool.toNat_lt st.busy
    rw [Status.word_toNat]
    omega
  rw [← BitVec.toNat_inj, hmask, hlow]
  cases st.busy <;> cases st.done <;> simp

/-- One turn over the line of `wait`. -/
theorem hostTurn_wait {s : State} {ls : List HostLine} (hp : s.program = waitLines ++ ls) :
    hostTurn s = .next ((s.setProgram (if s.block.status.busy = false ∧ s.block.status.done = true then ls
      else s.program)).answer (.port 0x04 s.block.status.word)) := by
  have hread (u : State) : portRead 0x04 32 u = .next (u.answer (.port 0x04 u.block.status.word)) :=
    portRead_of_admitted rfl (by decide) u
  have hvalue : portValue (s.setProgram ls).block 0x04 = s.block.status.word := rfl
  replace hp : s.program = .poll 0x04 0x3#32 0x2#32 :: ls := hp
  rw [hostTurn_of_line hp, hostLine, pollOnce, hvalue, hread, hread, hp]
  by_cases h : s.block.status.busy = false ∧ s.block.status.done = true
  · rw [if_pos ((wait_condition_iff _).mpr h), if_pos h]
    rfl
  · rw [if_neg (mt (wait_condition_iff _).mp h), if_neg h]
    rfl

/-- Settles O59: setarg's two writes store the halves of X, and a read of STATUS ends the poll exactly when its two low
bits are DONE without BUSY. -/
theorem setargAndWaitLines : Obligations.SetargAndWaitLines := by
  refine ⟨fun s x ls hq hb => ⟨fun hp => ?_, fun hp => ?_, fun hp => ?_⟩, fun _ _ => hostTurn_wait⟩
  · exact ⟨_, run_two_wrLines hq hb hp (by decide) (by decide), argAddr_halves x, rfl, rfl, rfl⟩
  · exact ⟨_, run_two_wrLines hq hb hp (by decide) (by decide), argAddr_halves x, rfl, rfl, rfl⟩
  · exact ⟨_, run_two_wrLines hq hb hp (by decide) (by decide), argAddr_halves x, rfl, rfl, rfl⟩

end Sys2Proof.Machine
end

/-!
### What launches, block turns and host turns leave unchanged (45_control_port.md R197, 70_reset_and_hazards.md R262)
-/

section
namespace Sys2Proof.Machine

/-! #### A launch -/

/-- A launch replaces OP, STATUS and fsm alone. -/
theorem launch_eq {c : Config} (op : BitVec 4) (b : Block c) :
    ∃ st f, launch op b = { b with op := op, status := st, fsm := f } := by
  obtain ⟨-, hl⟩ | ⟨-, hl⟩ := launch_cases op b
  · exact ⟨_, _, hl⟩
  · exact ⟨_, _, hl⟩

/-- So does a START write, beside the taint mark; while BUSY it replaces nothing. -/
theorem startCommand_eq (op : BitVec 4) (s : State) :
    ∃ op' st f tnt,
      startCommand op s = (s.setBlock { s.block with op := op', status := st, fsm := f }).setTainted tnt := by
  cases hb : s.block.status.busy with
  | true => exact ⟨s.block.op, s.block.status, s.block.fsm, s.tainted, startCommand_busy hb⟩
  | false =>
    obtain ⟨st, f, hl⟩ := launch_eq op s.block
    exact ⟨op, st, f, false, (startCommand_idle hb).trans (by rw [hl])⟩

/-- Settles O13: a command is a START write of its OP. -/
theorem launchFrame : Obligations.LaunchFrame := by
  intro i s t _ h
  rw [exec_eq] at h
  obtain rfl := Host.Outcome.next.inj h
  obtain ⟨op, st, f, tnt, he⟩ := startCommand_eq i.op s
  rw [he]
  exact ⟨fun _ => rfl, rfl, rfl, rfl, rfl, rfl, _, ⟨tnt, rfl⟩, rfl, rfl, rfl, rfl, rfl, rfl, rfl, rfl, rfl, rfl, rfl, rfl,
    rfl, rfl, rfl, rfl, rfl⟩

/-! #### A block turn -/

/-- A micro-step replaces STATUS, the sequencer and the data path, never OP or an operand. -/
theorem nextBlock_eq {c : Config} (m : Mem) (b : Block c) :
    ∃ st f i j ac an bc bn o, nextBlock m b =
      { b with status := st, fsm := f, i := i, j := j, aCur := ac, aNext := an, bCur := bc, bNext := bn, outWord := o } := by
  cases hf : b.fsm with
  | idle => exact ⟨_, _, _, _, _, _, _, _, _, nextBlock_idle hf⟩
  | mulInit => exact ⟨_, _, _, _, _, _, _, _, _, nextBlock_mulInit hf⟩
  | mulRow => exact ⟨_, _, _, _, _, _, _, _, _, (nextBlock_mulRow hf).trans mulRow_eq⟩
  | mulBload => exact ⟨_, _, _, _, _, _, _, _, _, nextBlock_mulBload hf⟩
  | mulCol =>
    by_cases hj : b.j.toNat + 1 < b.args.d2
    · exact ⟨_, _, _, _, _, _, _, _, _, (nextBlock_mulCol hf).trans (mulCol_of_more hj)⟩
    · exact ⟨_, _, _, _, _, _, _, _, _, (nextBlock_mulCol hf).trans (mulCol_of_last hj)⟩
  | mulFlush =>
    by_cases hi : b.i.toNat + 1 < b.args.d0
    · exact ⟨_, _, _, _, _, _, _, _, _, (nextBlock_mulFlush hf).trans (mulFlushBlock_of_more hi)⟩
    · exact ⟨_, _, _, _, _, _, _, _, _, (nextBlock_mulFlush hf).trans (mulFlushBlock_of_last hi)⟩
  | trnRun => exact ⟨_, _, _, _, _, _, _, _, _, nextBlock_trnRun hf⟩

/-- Every control register but STATUS reads as before a micro-step. -/
theorem portValue_nextBlock {c : Config} (m : Mem) (b : Block c) {off : Nat} (h : off ≠ 0x04) :
    portValue (nextBlock m b) off = portValue b off := by
  obtain ⟨st, f, i, j, ac, an, bc, bn, o, he⟩ := nextBlock_eq m b
  rw [he]
  simp only [portValue, if_neg h]

theorem portValue_blockTurn (s : State) {off : Nat} (h : off ≠ 0x04) :
    portValue (blockTurn s).block off = portValue s.block off := by
  obtain he | he := blockTurn_eq_or s
  · rw [he]
  · rw [he]
    exact portValue_nextBlock s.mem s.block h

/-- A byte outside the word MUL_FLUSH stores and the words TRN_RUN stores. -/
theorem readByte_microStep_outside {s : State} (hm : s.mem.wf = true) {x : Nat}
    (hflush : s.block.fsm = .mulFlush → x < cWordAddr s.cfg s.block.args s.block.i.toNat ∨
      cWordAddr s.cfg s.block.args s.block.i.toNat + s.cfg.wordBytes ≤ x)
    (htrn : s.block.fsm = .trnRun → x < s.block.args.a2 ∨
      s.block.args.a2 + trnWords s.cfg s.block.args * s.cfg.wordBytes ≤ x) :
    (microStep s).mem.readByte x = s.mem.readByte x := by
  by_cases hf : s.block.fsm = .mulFlush
  · have hx := hflush hf
    rw [microStep_mem_mulFlush hf, readByte_setMemWord hm, if_neg (by omega)]
  by_cases ht : s.block.fsm = .trnRun
  · rw [microStep_mem_trnRun ht]
    refine readByte_setMemWords_outside hm _ _ ?_
    rw [trnOutput_length]
    exact htrn ht
  · rw [microStep_mem_of_no_write hf ht]

/-- Settles O29: a turn without a step changes nothing, and a micro-step is `nextBlock` and at most one write. -/
theorem blockTurnFrame : Obligations.BlockTurnFrame := by
  intro s hm
  obtain he | he := blockTurn_eq_or s
  · rw [he]
    exact ⟨rfl, rfl, rfl, rfl, ⟨s.block, ⟨_, _, _, rfl⟩, rfl, fun _ _ => rfl,
      fun _ => ⟨rfl, rfl, rfl, rfl, rfl, rfl, rfl⟩⟩, fun _ _ _ => rfl⟩
  · rw [he]
    refine ⟨rfl, rfl, rfl, rfl, ⟨nextBlock s.mem s.block, ⟨_, _, _, rfl⟩, nextBlock_op _ _,
      fun off => portValue_nextBlock s.mem s.block, fun hf => ?_⟩, fun x => readByte_microStep_outside hm⟩
    rw [nextBlock_trnRun hf]
    exact ⟨rfl, rfl, rfl, rfl, rfl, rfl, rfl⟩

/-- Settles O43: a block turn replaces no operand, and a host turn no register of a BUSY block. -/
theorem operandsFrozenWhileBusy : Obligations.OperandsFrozenWhileBusy := fun s hb =>
  ⟨fun _ => portValue_blockTurn s, fun _ ht => hostTurn_busy hb ht⟩

/-! #### The idle block (R262) -/

/-- A write transaction keeps fsm, or it is a write to CTRL. -/
theorem portWrite_fsm {off bits : Nat} {v : Reg} {s t : State} (h : portWrite off bits v s = .next t) :
    t.block.fsm = s.block.fsm ∨ (off = 0x00 ∧ bits = 32 ∧ writeCtrl v s = .next t) := by
  by_cases hw : bits = 32
  · subst hw
    by_cases h0 : off = 0x00
    · subst h0
      exact .inr ⟨rfl, rfl, h⟩
    · unfold portWrite at h
      split at h
      · nomatch h
      · rw [if_neg h0] at h
        obtain rfl := Host.Outcome.next.inj h
        cases hb : s.block.status.busy with
        | true => exact .inl (by rw [writeOther_busy hb])
        | false =>
          obtain ⟨-, -, hf, -⟩ := storeArg_frame s.block off v
          exact .inl (by rw [writeOther_idle hb]; exact hf)
  · rw [(portAccess_of_refusal (portRefusal_width hw) v s).1] at h
    nomatch h

/-- A write to CTRL takes the sequencer out of IDLE only if the word decodes to a command. -/
theorem decode_of_writeCtrl_leaves_idle {v : Reg} {s t : State} (hf : s.block.fsm = .idle)
    (h : writeCtrl v s = .next t) (ht : t.block.fsm ≠ .idle) : ∃ i, decode v = .command i := by
  cases hb : s.block.status.busy with
  | true =>
    rw [writeCtrl_busy hb] at h
    obtain rfl := Host.Outcome.next.inj h
    exact absurd hf ht
  | false =>
    cases hs : startField v with
    | false =>
      rw [writeCtrl_of_noLaunch (decode_of_no_start hs), hb] at h
      obtain rfl := Host.Outcome.next.inj h
      exact absurd hf ht
    | true =>
      by_cases h0 : opField v = 0#4
      · exact ⟨.multiply, decode_eq_command_iff.mpr ⟨hs, h0⟩⟩
      by_cases h1 : opField v = 1#4
      · exact ⟨.transpose, decode_eq_command_iff.mpr ⟨hs, h1⟩⟩
      · rw [writeCtrl_of_start hs, startCommand_of_reserved_op hb h0 h1] at h
        obtain rfl := Host.Outcome.next.inj h
        exact absurd rfl ht

/-- A line of the host's program is a write transaction, by its offset or its bus address, or it leaves the block's
registers as they are. -/
theorem hostLine_write_or_sameBlock {l : HostLine} {s t : State} (h : hostLine l s = .next t) :
    (∃ off bits v, (l = .wr off bits v ∨ l = .busWr (s.cfg.ctrlBase + off) bits v) ∧ portWrite off bits v s = .next t) ∨
      SameBlock s t := by
  cases l with
  | wr off bits v => exact .inl ⟨off, bits, v, .inl rfl, h⟩
  | busWr a bits v =>
    obtain ⟨off, rfl, hw⟩ := busWrite_next h
    exact .inl ⟨off, bits, v, .inr rfl, hw⟩
  | rd off bits =>
    rw [portRead_next h]
    exact .inr ⟨_, _, _, _, _, rfl⟩
  | busRd a bits =>
    simp only [hostLine, busRead] at h
    split at h
    · rw [portRead_next h]
      exact .inr ⟨_, _, _, _, _, rfl⟩
    · nomatch h
  | poll off mask val =>
    simp only [hostLine, pollOnce] at h
    split at h
    all_goals
      rw [portRead_next h]
      exact .inr ⟨_, _, _, _, _, rfl⟩
  | memWr a bytes =>
    rw [(hostWrite_next h).2]
    exact .inr (sameBlock_breakDuty _ s _)
  | memRd a n =>
    rw [(hostRead_next h).2]
    exact .inr ⟨_, _, _, _, _, rfl⟩

/-- A line of the host's program takes the sequencer out of IDLE only as the write of a command to CTRL. -/
theorem command_of_hostLine_leaves_idle {l : HostLine} {s t : State} (hf : s.block.fsm = .idle)
    (h : hostLine l s = .next t) (ht : t.block.fsm ≠ .idle) :
    ∃ v i, decode v = .command i ∧ (l = .wr 0x00 32 v ∨ l = .busWr s.cfg.ctrlBase 32 v) := by
  obtain ⟨off, bits, v, hl, hw⟩ | hsame := hostLine_write_or_sameBlock h
  · obtain hfsm | ⟨rfl, rfl, hw⟩ := portWrite_fsm hw
    · exact absurd (hfsm.trans hf) ht
    · obtain ⟨i, hd⟩ := decode_of_writeCtrl_leaves_idle hf hw ht
      exact ⟨v, i, hd, hl⟩
  · obtain ⟨-, hfsm⟩ := hsame.stuck_eq
    exact absurd (hfsm.trans hf) ht

/-- Settles O46: an idle block has no step, reset leaves IDLE, and the host's line that leaves it writes a command. -/
theorem idleBlockWaitsForStart : Obligations.IdleBlockWaitsForStart := by
  refine fun s hf => ⟨blockTurn_idle hf, rfl, fun t h ht => ?_⟩
  unfold hostTurn at h
  split at h
  · obtain rfl := Host.Outcome.next.inj h
    exact absurd hf ht
  · next l ls hp =>
    obtain ⟨v, i, hd, hl⟩ := command_of_hostLine_leaves_idle (s := s.setProgram ls) hf h ht
    rw [hp]
    exact ⟨v, i, hd, hl.imp (congrArg some) (congrArg some)⟩

end Sys2Proof.Machine
end

/-!
### The host's own accesses to data memory (20_memory.md R50, R63, 70_reset_and_hazards.md R267, R268)
-/

section
namespace Sys2Proof.Machine

theorem hostWrite_of_le {a : Nat} {bytes : List Byte} {s : State} (h : a + bytes.length ≤ 2 ^ s.cfg.addrWidth) :
    hostWrite a bytes s = .next (breakDuty { base := a, len := bytes.length } (s.setMem (s.mem.writeBytes a bytes))) :=
  if_neg (Nat.not_lt.mpr h)

theorem hostRead_of_le {a n : Nat} {s : State} (h : a + n ≤ 2 ^ s.cfg.addrWidth) :
    hostRead a n s = .next ((s.answer (.mem a ((List.range n).map fun k => hostByte s (a + k) k))).useFree n) :=
  if_neg (Nat.not_lt.mpr h)

/-! #### An idle machine -/

theorem breakDuty_idle {s : State} (h : s.block.status.busy = false) (r : Region) : breakDuty r s = s := if_pos h

theorem hostByte_idle {s : State} (h : s.block.status.busy = false) (a k : Nat) :
    hostByte s a k = s.mem.readByte a := by
  simp [hostByte, h]

/-- While idle a host write changes memory alone. -/
theorem hostWrite_idle {a : Nat} {bytes : List Byte} {s : State} (hb : s.block.status.busy = false)
    (h : a + bytes.length ≤ 2 ^ s.cfg.addrWidth) :
    hostWrite a bytes s = .next { s with mem := s.mem.writeBytes a bytes } := by
  rw [hostWrite_of_le h]
  exact congrArg Host.Outcome.next (breakDuty_idle (s := s.setMem (s.mem.writeBytes a bytes)) hb _)

/-- While idle a host read answers what memory holds. -/
theorem hostRead_idle {a n : Nat} {s : State} (hb : s.block.status.busy = false) (h : a + n ≤ 2 ^ s.cfg.addrWidth) :
    hostRead a n s =
      .next { s with answers := s.answers ++ [.mem a (s.mem.readBytes a n)], fresh := s.fresh + n } := by
  rw [hostRead_of_le h]
  simp only [hostByte_idle hb]
  rfl

/-- The bytes just written read back. -/
theorem readBytes_writeBytes {m : Mem} (hm : m.wf = true) (a : Nat) (bytes : List Byte) :
    (m.writeBytes a bytes).readBytes a bytes.length = bytes := by
  refine List.ext_getElem (Mem.readBytes_length _ _ _) fun k _ hk => ?_
  simp only [Mem.readBytes, List.getElem_map, List.getElem_range]
  rw [Mem.readByte_writeBytes hm, if_pos (by omega), Nat.add_sub_cancel_left, List.getD_eq_getElem _ _ hk]

/-- Settles O49: while idle a write stores its bytes and nothing else, and a read answers memory's bytes. -/
theorem hostMemoryReadsBack : Obligations.HostMemoryReadsBack := by
  intro s a bytes hm hb
  refine ⟨fun hle => ⟨s.mem.writeBytes a bytes, s.fresh + bytes.length, hostWrite_idle hb hle, ?_, fun y hy => ?_⟩,
    fun hle => ⟨_, hostRead_idle hb hle⟩, fun hlt => ⟨if_pos hlt, if_pos hlt⟩⟩
  · rw [hostRead_idle (s := { s with mem := s.mem.writeBytes a bytes }) hb hle, readBytes_writeBytes hm]
  · exact Mem.readByte_writeBytes_outside hm hy

/-! #### A host that keeps its duties (R268) -/

theorem keepsDuty_memWr {s : State} {a : Nat} {bytes : List Byte} (hb : s.block.status.busy = true)
    (h : keepsDuty s (.memWr a bytes) = true) :
    ∀ r ∈ runningOutput s :: runningInputs s, overlaps { base := a, len := bytes.length } r = false := by
  simpa [keepsDuty, hb] using h

/-- A write apart from the running command's regions taints nothing. -/
theorem breakDuty_of_apart {r : Region} {s : State}
    (h : ∀ q ∈ runningOutput s :: runningInputs s, overlaps r q = false) : breakDuty r s = s := by
  obtain ⟨hout, hin⟩ := List.forall_mem_cons.mp h
  obtain ⟨-, he⟩ | ⟨-, ho, -⟩ | ⟨-, -, hi, -⟩ | ⟨-, -, -, he⟩ := breakDuty_cases r s
  · exact he
  · exact nomatch hout.symm.trans ho
  · obtain ⟨q, hq, ho⟩ := List.any_eq_true.mp hi
    exact nomatch (hin q hq).symm.trans ho
  · exact he

/-- Settles O48: while BUSY a port line leaves memory and the mark, and a dutiful memory line writes apart from the
regions. -/
theorem dutifulHostKeepsRegions : Obligations.DutifulHostKeepsRegions := by
  intro s t l hm hb hk h
  obtain ⟨off, bits, v, h⟩ | ⟨off, ls, rfl⟩ | ⟨a, bytes, rfl, h⟩ | ⟨a, n, -, h⟩ := hostLine_next h
  · rw [portWrite_busy hb h]
    exact ⟨rfl, fun _ _ _ _ => rfl⟩
  · exact ⟨rfl, fun _ _ _ _ => rfl⟩
  · have hapart := keepsDuty_memWr hb hk
    rw [(hostWrite_next h).2, breakDuty_of_apart (s := s.setMem (s.mem.writeBytes a bytes)) hapart]
    exact ⟨rfl, fun r hr => agreeOn_writeBytes hm (hapart r hr)⟩
  · rw [(hostRead_next h).2]
    exact ⟨rfl, fun _ _ _ _ => rfl⟩

/-! #### A host that breaks its duty (R267) -/

section
variable {s : State} (hb : s.block.status.busy = true)
include hb

theorem hostByte_busy (a k : Nat) :
    hostByte s a k = if inRegion (runningOutput s) a then Config.freeValue 8 (s.fresh + k) else s.mem.readByte a := by
  simp only [hostByte, hb, true_and]

theorem breakDuty_of_output {r : Region} (h : overlaps r (runningOutput s) = true) :
    breakDuty r s = (s.havoc (runningOutput s)).setTainted true := by
  simp [breakDuty, hb, h]

/-- A write that meets an input region taints the run, whether or not it meets the output region too. -/
theorem breakDuty_tainted_of_input {r q : Region} (hq : q ∈ runningInputs s) (h : overlaps r q = true) :
    (breakDuty r s).tainted = true := by
  obtain ⟨hi, -⟩ | ⟨-, -, he⟩ | ⟨-, -, -, he⟩ | ⟨-, -, hn, -⟩ := breakDuty_cases r s
  · exact nomatch hb.symm.trans hi
  · rw [he]
    rfl
  · rw [he]
    rfl
  · exact absurd h (List.any_eq_false.mp hn q hq)

end

/-- Settles O47: what a read answers, what a write that meets a region leaves, and what a tainted run writes. -/
theorem brokenDutyGivesAnyValue : Obligations.BrokenDutyGivesAnyValue := by
  intro s hb
  refine ⟨fun a n hle => ?read, fun a bytes r hle hr hov => ?input, fun a bytes hm hle hov => ?output,
    fun ht hf ha => ?flush, fun ht hf ha => ?transpose⟩
  case read =>
    refine ⟨_, _, hostRead_of_le hle, rfl, by simp, fun k hk => ?_⟩
    rw [getD_map_range _ _ hk, hostByte_busy hb]
  case input =>
    exact ⟨_, hostWrite_of_le hle, breakDuty_tainted_of_input (s := s.setMem (s.mem.writeBytes a bytes)) hb hr hov⟩
  case output =>
    have hm' : (s.mem.writeBytes a bytes).wf = true := Mem.wf_writeBytes hm a bytes
    refine ⟨((s.setMem (s.mem.writeBytes a bytes)).havoc (runningOutput s)).mem,
      s.fresh + (runningOutput s).len, ?_, fun y hy => ?_, fun k hk hy => ?_, fun y hy hout => ?_⟩
    · rw [hostWrite_of_le hle, breakDuty_of_output (s := s.setMem (s.mem.writeBytes a bytes)) hb hov]
      rfl
    · exact readByte_havoc_of_mem (s := s.setMem _) hm' hy
    · rw [readByte_havoc_of_not_mem (s := s.setMem _) hm' hy, State.setMem_mem, Mem.readByte_writeBytes hm,
        if_pos (by omega), Nat.add_sub_cancel_left]
    · rw [readByte_havoc_of_not_mem (s := s.setMem _) hm' hy]
      exact Mem.readByte_writeBytes_outside hm hout
  case flush =>
    rw [blockTurn_of_request (nextRequest_mulFlush hf) ha, State.record_tainted, State.record_mem,
      microStep_mem_mulFlush hf, flushWord, if_pos ht, microStep_eq]
    exact ⟨ht, rfl⟩
  case transpose =>
    have hr : nextRequest s.block = some (trnRequest s.block) := if_pos hf
    rw [blockTurn_of_request hr ha, State.record_mem, microStep_mem_trnRun hf, trnOutput]
    simp only [ht, if_true]

end Sys2Proof.Machine
end

/-!
### The codec's inverses (40_codec.md sections 2 and 3) and the multiply-reduce in modular arithmetic (42_multiply.md R160)
-/

section
namespace Sys2Proof.Machine

/-! #### Words (R112, R113) -/

section
variable {c : Config}

/-- A list is its elements, index by index. -/
theorem map_range_getD {α : Type} {l : List α} {d : α} {n : Nat} (h : l.length = n) :
    ((List.range n).map fun k => l.getD k d) = l := by
  refine List.ext_getElem (by simp [h]) fun k _ hk => ?_
  simp [hk]

theorem unpack_pack (hc : c.wf = true) {es : List (BitVec c.elemWidth)} (h : es.length = c.lanes) :
    unpack c (pack c es) = es := by
  refine Eq.trans (List.map_congr_left fun k hk => ?_) (map_range_getD (d := 0) h)
  exact laneGet_pack hc es (List.mem_range.mp hk)

theorem pack_unpack (hc : c.wf = true) (v : BitVec c.dataWidth) : pack c (unpack c v) = v := by
  refine eq_of_lanes hc fun k hk => ?_
  rw [laneGet_pack hc _ hk, unpack, getD_map_range _ _ hk]

end

/-- Settles O54: the lanes partition the word. -/
theorem packUnpackRoundTrip : Obligations.PackUnpackRoundTrip :=
  fun _ hc => ⟨fun _ h => unpack_pack hc h, pack_unpack hc⟩

/-! #### Matrices (R115, R116, R118) -/

section
variable {c : Config}

/-- Element t*L + k of a list is lane k of word t of its stream. -/
theorem laneGet_packChunk (hc : c.wf = true) (es : List (BitVec c.elemWidth)) (t : Nat) {k : Nat} (hk : k < c.lanes) :
    laneGet c.elemWidth (packChunk c es t) k = es.getD (t * c.lanes + k) 0 := by
  rw [packChunk, laneGet_pack hc _ hk, getD_map_range _ _ hk]

/-- Element e of the stream of a list is element e of the list. -/
theorem streamElem_packChunks (hc : c.wf = true) (es : List (BitVec c.elemWidth)) {n e : Nat} (he : e / c.lanes < n) :
    streamElem c ((List.range n).map (packChunk c es)) e = es.getD e 0 := by
  rw [streamElem, getD_map_range _ _ he, laneGet_packChunk hc es _ (Nat.mod_lt e (Config.lanes_pos hc)),
    Nat.div_add_mod']

/-- Word t of the stream of a stream's elements is word t of the stream. -/
theorem packChunk_streamElems (hc : c.wf = true) (ws : List (BitVec c.dataWidth)) {n t : Nat}
    (ht : (t + 1) * c.lanes ≤ n) : packChunk c ((List.range n).map (streamElem c ws)) t = ws.getD t 0 := by
  refine eq_of_lanes hc fun k hk => ?_
  obtain ⟨hdiv, hmod⟩ := row_div_mod (r := t) hk
  rw [Nat.succ_mul] at ht
  rw [laneGet_packChunk hc _ _ hk, getD_map_range _ _ (by omega), streamElem, hdiv, hmod]

theorem decodeStream_encodeMatrix (hc : c.wf = true) {x : Matrix c.elemWidth} (hx : x.wf = true)
    (hmod : x.rows * x.cols % c.lanes = 0) :
    ∃ ws, encodeMatrix c x = .ok ws ∧ decodeStream c ws x.rows x.cols = .ok x := by
  have hlen : x.flat.length = x.rows * x.cols := by simpa [Matrix.wf] using hx
  refine ⟨_, if_pos hmod, (if_pos ⟨hmod, by simp⟩).trans (congrArg Except.ok ?_)⟩
  refine congrArg (Matrix.mk x.rows x.cols) (Eq.trans (List.map_congr_left fun e he => ?_) (map_range_getD (d := 0) hlen))
  refine streamElem_packChunks hc x.flat ?_
  rw [Nat.div_lt_iff_lt_mul (Config.lanes_pos hc), Nat.div_mul_cancel (Nat.dvd_of_mod_eq_zero hmod)]
  exact List.mem_range.mp he

theorem encodeMatrix_decodeStream (hc : c.wf = true) {ws : List (BitVec c.dataWidth)} {rows cols : Nat}
    (hmod : rows * cols % c.lanes = 0) (hlen : ws.length = rows * cols / c.lanes) :
    ∃ x, decodeStream c ws rows cols = .ok x ∧ encodeMatrix c x = .ok ws := by
  refine ⟨_, if_pos ⟨hmod, hlen⟩, (if_pos hmod).trans (congrArg Except.ok ?_)⟩
  refine Eq.trans (List.map_congr_left fun t ht => ?_) (map_range_getD (d := 0) hlen)
  refine packChunk_streamElems hc ws ?_
  exact (Nat.le_div_iff_mul_le (Config.lanes_pos hc)).mp (List.mem_range.mp ht)

end

/-- Settles O55: an element's word and lane are its index divided by L, so each conversion undoes the other; a shape or
lane out of contract fails the check. -/
theorem matrixCodecRoundTrip : Obligations.MatrixCodecRoundTrip := fun _ hc =>
  ⟨fun _ hx hmod => decodeStream_encodeMatrix hc hx hmod, fun _ _ _ hmod hlen => encodeMatrix_decodeStream hc hmod hlen,
    fun _ h => if_neg h, fun _ _ _ h => if_neg h,
    fun _ _ _ hk => ⟨if_neg (Nat.not_lt.mpr hk), if_neg (Nat.not_lt.mpr hk)⟩⟩

/-! #### Elements as bytes (20_memory.md section 2, R119) -/

section
variable {c : Config}

/-- Byte x/8 of element e lies at s + e*EB + x/8, by its word, its lane and its place in the lane. -/
theorem memElem_byteAddr (hc : c.wf = true) (a e x : Nat) :
    a + e / c.lanes * c.wordBytes + (c.elemWidth * (e % c.lanes) + x) / 8 = a + e * c.elemBytes + x / 8 := by
  have hlane : (c.elemWidth * (e % c.lanes) + x) / 8 = c.elemBytes * (e % c.lanes) + x / 8 := by
    rw [Config.elemWidth_eq hc, Nat.mul_assoc, Nat.mul_add_div (by decide)]
  have hword : e / c.lanes * c.wordBytes + c.elemBytes * (e % c.lanes) = e * c.elemBytes := by
    calc e / c.lanes * c.wordBytes + c.elemBytes * (e % c.lanes)
        = (e / c.lanes * c.lanes + e % c.lanes) * c.elemBytes := by rw [Config.wordBytes_eq hc]; ring
      _ = e * c.elemBytes := by rw [Nat.div_add_mod']
  omega

/-- Bit x of an element, inside and past its W bits. -/
theorem memElem_getLsbD (hc : c.wf = true) (m : Mem) (a e : Nat) {x : Nat} (hx : x < c.elemWidth) :
    (memElem c m a e).getLsbD x = (m.readByte (a + e * c.elemBytes + x / 8)).getLsbD (x % 8) := by
  have hin := Config.lane_inside hc (Nat.mod_lt e (Config.lanes_pos hc))
  have hbit : (c.elemWidth * (e % c.lanes) + x) % 8 = x % 8 := by
    rw [Config.elemWidth_eq hc, Nat.mul_assoc, Nat.mul_add_mod]
  rw [memElem, laneGet_bit _ _ _ hx, memWord_getLsbD _ _ _ (Config.dataWidth_bytes hc) (by omega),
    memElem_byteAddr hc, hbit]

end

/-- Settles O56: each bit of the element is the same bit of the same byte. -/
theorem streamElementIsRowMajorBytes : Obligations.StreamElementIsRowMajorBytes := by
  intro c m a e hc
  have hw := Config.elemWidth_eq hc
  refine Nat.eq_of_testBit_eq fun x => ?_
  rw [leNat_testBit]
  by_cases hx : x < c.elemWidth
  · rw [Mem.readBytes, getD_map_range _ _ (by omega)]
    exact memElem_getLsbD hc m a e hx
  · rw [List.getD_eq_default _ _ (by rw [Mem.readBytes_length]; omega)]
    exact (BitVec.getLsbD_of_ge _ _ (Nat.not_lt.mp hx)).trans (by simp)

/-! #### The multiply-reduce (R159, R160, R166) -/

section
variable {c : Config}

/-- Reduction mod 2^W commutes with sums and products (R160). -/
theorem ofNat_sum_mul {w : Nat} (f g : Nat → BitVec w) (l : List Nat) :
    BitVec.ofNat w (l.map fun k => (f k).toNat * (g k).toNat).sum = (l.map fun k => f k * g k).sum := by
  induction l with
  | nil => rfl
  | cons k l ih =>
    rw [List.map_cons, List.map_cons, List.sum_cons, List.sum_cons, ← ih, BitVec.ofNat_add, BitVec.ofNat_mul,
      BitVec.ofNat_toNat, BitVec.ofNat_toNat, BitVec.setWidth_eq, BitVec.setWidth_eq]

theorem dot_eq_sum (c : Config) (a b : BitVec c.dataWidth) :
    dot c a b = ((List.range c.lanes).map fun k => laneGet c.elemWidth a k * laneGet c.elemWidth b k).sum :=
  ofNat_sum_mul _ _ _

theorem foldl_add_eq_sum {w : Nat} (f : Nat → BitVec w) (l : List Nat) (z : BitVec w) :
    l.foldl (fun sum k => sum + f k) z = z + (l.map f).sum := by
  induction l generalizing z with
  | nil => simp
  | cons k l ih => rw [List.foldl_cons, ih, List.map_cons, List.sum_cons, add_assoc]

/-- A lane inside an all-ones word is all ones. -/
theorem laneGet_allOnes {dw w k : Nat} (h : w * k + w ≤ dw) :
    laneGet w (BitVec.allOnes dw) k = BitVec.allOnes w := by
  apply BitVec.eq_of_getLsbD_eq
  intro x hx
  rw [laneGet_bit _ _ _ hx, BitVec.getLsbD_allOnes, BitVec.getLsbD_allOnes]
  simp only [hx, decide_true, decide_eq_true_eq]
  omega

/-- R166 (b): (-1) * (-1) = 1 in each lane. -/
theorem dot_allOnes (hc : c.wf = true) :
    dot c (BitVec.allOnes c.dataWidth) (BitVec.allOnes c.dataWidth) = BitVec.ofNat c.elemWidth c.lanes := by
  have hlane : ∀ k ∈ List.range c.lanes, laneGet c.elemWidth (BitVec.allOnes c.dataWidth) k *
      laneGet c.elemWidth (BitVec.allOnes c.dataWidth) k = 1 := by
    intro k hk
    rw [laneGet_allOnes (Config.lane_inside hc (List.mem_range.mp hk)), ← BitVec.neg_one_eq_allOnes]
    exact (neg_mul_neg (1 : BitVec c.elemWidth) 1).trans (one_mul 1)
  rw [dot_eq_sum, List.map_congr_left hlane, List.map_const', List.sum_replicate, List.length_range, nsmul_one]
  rfl

/-- R166 (c): a zero lane contributes nothing. -/
theorem dot_zero_left (b : BitVec c.dataWidth) : dot c 0 b = 0 := by
  have hlane (k : Nat) : laneGet c.elemWidth (0#c.dataWidth) k = 0#c.elemWidth := by simp [laneGet]
  simp [dot, hlane]

theorem dot_comm (a b : BitVec c.dataWidth) : dot c a b = dot c b a := by
  simp only [dot, Nat.mul_comm]

end

/-- Settles O58: the multiply-reduce is a sum of products in the ring of W-bit integers. -/
theorem dotIsModularArithmetic : Obligations.DotIsModularArithmetic := by
  refine fun c a b hc => ⟨?_, dot_allOnes hc, dot_zero_left b, dot_comm a b⟩
  rw [foldl_add_eq_sum, dot_eq_sum]
  exact (zero_add _).symm

end Sys2Proof.Machine
end
